-- ==== Sys2Proof/Word.lean ====
section
/-! DEFINITION. The register value type and the three readings of it that the spec's notation fixes
(00_scope.md R10): `unsigned`, `signed` and `bv32`. -/

namespace Sys2Proof

/-- A register value: 32 bits, bit 0 least significant (R8, R10, R20). -/
abbrev Word := BitVec 32

/-- `unsigned(v)` of R10, in `[0, 2^32)`, as an integer so that a difference is exact. -/
def unsigned (v : Word) : Int := (v.toNat : Int)

/-- `signed(v)` of R10: the two's-complement value in `[-2^31, 2^31)`. -/
def signed (v : Word) : Int := v.toInt

/-- `bv32(n)` of R10: the one 32-bit vector whose unsigned value is `n mod 2^32`. -/
def bv32 (n : Int) : Word := BitVec.ofInt 32 n

end Sys2Proof
end

