-- ==== Sys2Proof/Config.lean ====
section
/-! DEFINITION. The implementation parameter of the executor: `ImmRange`, the integers an immediate
token may denote (00_scope.md R8, R9; 92_eei_decisions.md D9). The model has no free value: the spec
leaves no result open. -/

namespace Sys2Proof

/-- `ImmRange`: the integers from `lo` to `hi`, both included (R9). That it is an interval is a
DESIGN CHOICE (log entry 3); both profiles the spec names are intervals. -/
structure ImmRange where
  lo : Int
  hi : Int
deriving DecidableEq, Repr

/-- `v` lies in the range (R71). -/
def ImmRange.contains (r : ImmRange) (v : Int) : Bool := decide (r.lo ≤ v) && decide (v ≤ r.hi)

/-- Every value of the range is a signed 32-bit value, as R9 and R75 say of both profiles. -/
def ImmRange.fits32 (r : ImmRange) : Bool := decide (-2147483648 ≤ r.lo) && decide (r.hi ≤ 2147483647)

/-- The default, `[-2^31, 2^31-1]` (R8, R9). -/
def Config.defaultImmRange : ImmRange := ⟨-2147483648, 2147483647⟩

/-- The narrower profile, `[-2048, 2047]` (R9). -/
def Config.narrowImmRange : ImmRange := ⟨-2048, 2047⟩

end Sys2Proof
end

