-- ==== Sys2Proof/Syntax.lean ====
section
/-! DEFINITION. Text, operands, the parser's record, the instructions of the opcode table and the
error kinds (00_scope.md R12, 30_encoding.md R73, R74, R76, 60_exceptions.md R180). -/

namespace Sys2Proof

/-- A text: its characters in order, each a Unicode scalar value (R12). -/
abbrev Text := List Char

/-- `Operand` of R73. The parser only makes registers of index 0 and up; a decoded bundle may name
any integer (R83). -/
inductive Operand where
  /-- `Register(index)` -/
  | register (index : Int)
  /-- `Immediate(value)` -/
  | immediate (value : Int)
deriving DecidableEq, Repr

/-- The tag of an operand, as the Opcode Table declares it (R74, R102). -/
inductive OperandKind where
  | register
  | immediate
deriving DecidableEq, Repr

/-- The tag of an operand (R102). -/
def Operand.kind : Operand → OperandKind
  | .register _ => .register
  | .immediate _ => .immediate

/-- The two formats of R74. -/
inductive Format where
  | rType
  | iType
deriving DecidableEq, Repr

/-- The operand kinds a format declares (R74). -/
def Format.kinds : Format → List OperandKind
  | .rType => [.register, .register, .register]
  | .iType => [.register, .register, .immediate]

/-- The parser's output, and the decoded bundle of R83: any opcode text, any operand list. -/
structure Instruction where
  opcode : Text
  operands : List Operand
deriving DecidableEq, Repr

/-- The instructions of the Opcode Table (R76), one constructor a row. Each holds its whole operand
list: the number, kinds and ranges are checked by the engine, not by the table lookup (R101 to R103). -/
inductive Instr where
  | add (operands : List Operand)
  | sub (operands : List Operand)
  | mul (operands : List Operand)
  | sll (operands : List Operand)
  | addi (operands : List Operand)
  | slt (operands : List Operand)
  | sltu (operands : List Operand)
  | xor (operands : List Operand)
  | srl (operands : List Operand)
  | sra (operands : List Operand)
  | or (operands : List Operand)
  | and (operands : List Operand)
deriving DecidableEq, Repr

/-- The operand list of an instruction. -/
def Instr.operands : Instr → List Operand
  | .add o | .sub o | .mul o | .sll o | .addi o => o
  | .slt o | .sltu o | .xor o | .srl o | .sra o | .or o | .and o => o

/-- The format the Opcode Table gives an instruction; for the seven unsupported ones R-type, for the
record only (R74, R76). -/
def Instr.format : Instr → Format
  | .addi _ => .iType
  | .add _ | .sub _ | .mul _ | .sll _ => .rType
  | .slt _ | .sltu _ | .xor _ | .srl _ | .sra _ | .or _ | .and _ => .rType

/-- The four errors of the parser (R181 to R184). -/
inductive ParseError where
  | empty
  | badArity
  | badRegisterToken
  | badImmediate
deriving DecidableEq, Repr

/-- The four errors of the Execution Engine (R185 to R188). -/
inductive ExecError where
  | unknownOpcode
  | unsupportedOpcode
  | operandKindMismatch
  | registerOutOfRange (index : Int)
deriving DecidableEq, Repr

/-- The eight error kinds of R180, in their two classes. -/
inductive ErrorKind where
  | parse (e : ParseError)
  | exec (e : ExecError)
deriving DecidableEq, Repr

end Sys2Proof
end

