-- ==== Sys2Proof/WellFormed.lean ====
section
/-! DEFINITION. When a decoded instruction has a meaning at all (30_encoding.md R83), when it can be
written as a line (R61, R69, R71), and when it has an informative binary word (R84). -/

namespace Sys2Proof

/-- An immediate lies in `ImmRange`; a register operand of any index passes (R83). -/
def Operand.wellFormed (r : ImmRange) : Operand → Bool
  | .register _ => true
  | .immediate v => r.contains v

/-- R83: "A bundle is well formed when every `Immediate(v)` in it has `v` in `ImmRange`." -/
def Instruction.wellFormed (r : ImmRange) (b : Instruction) : Bool :=
  b.operands.all (Operand.wellFormed r)

/-- The check of R83 on an instruction of the table. -/
def Instr.wellFormed (r : ImmRange) (i : Instr) : Bool := i.operands.all (Operand.wellFormed r)

/-- The operand lists a line can denote: two register tokens, then a register or an immediate token,
indices not negative, the immediate in range (R67 to R71). -/
def lineOperands (r : ImmRange) : List Operand → Bool
  | [.register d, .register a, .register b] => decide (0 ≤ d) && decide (0 ≤ a) && decide (0 ≤ b)
  | [.register d, .register a, .immediate v] => decide (0 ≤ d) && decide (0 ≤ a) && r.contains v
  | _ => false

/-- The instruction has a line (R61). -/
def Instr.hasLine (r : ImmRange) (i : Instr) : Bool := lineOperands r i.operands

/-- A register index in `[0,31]` (R24, R103). -/
def inSlots (i : Int) : Bool := decide (0 ≤ i) && decide (i ≤ 31)

/-- The operand lists the informative words of R84 can hold, by format. -/
def wordOperandsFit : Format → List Operand → Bool
  | .rType, [.register d, .register a, .register b] => inSlots d && inSlots a && inSlots b
  | .iType, [.register d, .register a, .immediate v] =>
    inSlots d && inSlots a && decide (-2048 ≤ v) && decide (v ≤ 2047)
  | _, _ => false

/-- The instruction has an informative binary word (R84). -/
def Instr.hasWord (i : Instr) : Bool := wordOperandsFit i.format i.operands

end Sys2Proof
end

