-- ==== Sys2Proof/Decode.lean ====
section
/-! DEFINITION. The decoder: the Instruction Parser (30_encoding.md R62 to R73), the Opcode Table
lookup (R76 to R78), the informative binary front end (R84), and the encoders from the same table. -/

namespace Sys2Proof

/-! ### Characters and texts (00_scope.md R12) -/

/-- The six whitespace characters: space, and 09H to 0DH (R12). -/
def isSpace (c : Char) : Bool := c.toNat == 0x20 || (decide (0x09 ≤ c.toNat) && decide (c.toNat ≤ 0x0D))

/-- ASCII `0` to `9` (R12). -/
def isDigit (c : Char) : Bool := c.isDigit

/-- `lower` on one character: ASCII `A` to `Z` only (R12). -/
def lowerChar (c : Char) : Char := c.toLower

/-- `lower(s)` (R12). -/
def lower (s : Text) : Text := s.map lowerChar

/-- `trim(s)` (R12). -/
def trim (s : Text) : Text := ((s.dropWhile isSpace).reverse.dropWhile isSpace).reverse

/-- `dec(d)`: the natural number a digit string denotes (R12). -/
def dec (d : Text) : Nat := Nat.ofDigitChars 10 d 0

/-- The pieces of a text between the characters that `p` holds of; always at least one piece. -/
def splitAtEvery (p : Char → Bool) : Text → List Text
  | [] => [[]]
  | c :: cs =>
    if p c then [] :: splitAtEvery p cs
    else match splitAtEvery p cs with
      | [] => [[c]]
      | t :: ts => (c :: t) :: ts

/-! ### The Instruction Parser -/

/-- R62: trimmed, then lower-cased. -/
def normalise (raw : Text) : Text := lower (trim raw)

/-- R63: the normalised line up to its first whitespace character. -/
def opcodeToken (s : Text) : Text := s.takeWhile fun c => !isSpace c

/-- R63: the rest of the line, trimmed. -/
def operandText (s : Text) : Text := trim (s.dropWhile fun c => !isSpace c)

/-- R65: split at every comma, each piece trimmed; a piece that is empty or holds whitespace is
`BadArity`. -/
def commaTokens (rest : Text) : Except ParseError (List Text) :=
  let toks := (splitAtEvery (fun c => c == ',') rest).map trim
  if toks.any fun t => t.isEmpty || t.any isSpace then .error .badArity else .ok toks

/-- R66: the maximal runs of non-whitespace characters. -/
def spaceTokens (rest : Text) : List Text :=
  (splitAtEvery isSpace rest).filter fun t => !t.isEmpty

/-- R64: no operand text, comma form, or space form. -/
def operandTokens (rest : Text) : Except ParseError (List Text) :=
  if rest.isEmpty then .ok []
  else if rest.any fun c => c == ',' then commaTokens rest
  else .ok (spaceTokens rest)

/-- A non-empty string of digits. -/
def isDigits (d : Text) : Bool := !d.isEmpty && d.all isDigit

/-- `regTok` (R68, R69). -/
def regTok : Text → Except ParseError Operand
  | 'x' :: d => if isDigits d then .ok (.register (dec d)) else .error .badRegisterToken
  | _ => .error .badRegisterToken

/-- The integer that `[+-]?[0-9]+` denotes; `none` where the token is not of that form (R71). -/
def signedDecimal : Text → Option Int
  | '+' :: d => if isDigits d then some (dec d) else none
  | '-' :: d => if isDigits d then some (-(dec d : Int)) else none
  | d => if isDigits d then some (dec d) else none

/-- `immTok` (R71). -/
def immTok (r : ImmRange) (t : Text) : Except ParseError Operand :=
  match signedDecimal t with
  | none => .error .badImmediate
  | some v => if r.contains v then .ok (.immediate v) else .error .badImmediate

/-- R70: operand position 3 is classified by its first character alone. -/
def thirdTok (r : ImmRange) (t : Text) : Except ParseError Operand :=
  if t.head? = some 'x' then regTok t else immTok r t

/-- R67, R68, R70: exactly three tokens, read left to right. -/
def readOperands (r : ImmRange) : List Text → Except ParseError (List Operand)
  | [t1, t2, t3] => do
    let o1 ← regTok t1
    let o2 ← regTok t2
    let o3 ← thirdTok r t3
    return [o1, o2, o3]
  | _ => .error .badArity

/-- The Instruction Parser, in the check order of R72. -/
def parse (r : ImmRange) (raw : Text) : Except ParseError Instruction :=
  let s := normalise raw
  if s.isEmpty then .error .empty
  else do
    let toks ← operandTokens (operandText s)
    let ops ← readOperands r toks
    return { opcode := opcodeToken s, operands := ops }

/-! ### The Opcode Table -/

/-- One row of the Opcode Table (R76), with the informative opcode, funct3 and funct7 bits of R84. -/
structure OpcodeRow where
  mnemonic : Text
  format : Format
  opcode : Nat
  funct3 : Nat
  funct7 : Option Nat
  build : List Operand → Instr

def rowAdd : OpcodeRow := ⟨['a', 'd', 'd'], .rType, 0b0110011, 0b000, some 0b0000000, .add⟩
def rowSub : OpcodeRow := ⟨['s', 'u', 'b'], .rType, 0b0110011, 0b000, some 0b0100000, .sub⟩
def rowMul : OpcodeRow := ⟨['m', 'u', 'l'], .rType, 0b0110011, 0b000, some 0b0000001, .mul⟩
def rowSll : OpcodeRow := ⟨['s', 'l', 'l'], .rType, 0b0110011, 0b001, some 0b0000000, .sll⟩
def rowAddi : OpcodeRow := ⟨['a', 'd', 'd', 'i'], .iType, 0b0010011, 0b000, none, .addi⟩
def rowSlt : OpcodeRow := ⟨['s', 'l', 't'], .rType, 0b0110011, 0b010, some 0b0000000, .slt⟩
def rowSltu : OpcodeRow := ⟨['s', 'l', 't', 'u'], .rType, 0b0110011, 0b011, some 0b0000000, .sltu⟩
def rowXor : OpcodeRow := ⟨['x', 'o', 'r'], .rType, 0b0110011, 0b100, some 0b0000000, .xor⟩
def rowSrl : OpcodeRow := ⟨['s', 'r', 'l'], .rType, 0b0110011, 0b101, some 0b0000000, .srl⟩
def rowSra : OpcodeRow := ⟨['s', 'r', 'a'], .rType, 0b0110011, 0b101, some 0b0100000, .sra⟩
def rowOr : OpcodeRow := ⟨['o', 'r'], .rType, 0b0110011, 0b110, some 0b0000000, .or⟩
def rowAnd : OpcodeRow := ⟨['a', 'n', 'd'], .rType, 0b0110011, 0b111, some 0b0000000, .and⟩

/-- The Opcode Table, complete (R76). -/
def opcodeTable : List OpcodeRow :=
  [rowAdd, rowSub, rowMul, rowSll, rowAddi, rowSlt, rowSltu, rowXor, rowSrl, rowSra, rowOr, rowAnd]

/-- The table's row of an instruction. -/
def Instr.row : Instr → OpcodeRow
  | .add _ => rowAdd
  | .sub _ => rowSub
  | .mul _ => rowMul
  | .sll _ => rowSll
  | .addi _ => rowAddi
  | .slt _ => rowSlt
  | .sltu _ => rowSltu
  | .xor _ => rowXor
  | .srl _ => rowSrl
  | .sra _ => rowSra
  | .or _ => rowOr
  | .and _ => rowAnd

/-- Step 1's lookup (R76, R77, R101): the opcode text matches a row exactly, or is unknown. A
bundle's opcode is matched as it stands: DEDUCED, log entry 6. -/
def resolve (b : Instruction) : Except ExecError Instr :=
  match opcodeTable.find? fun row => row.mnemonic == b.opcode with
  | some row => .ok (row.build b.operands)
  | none => .error .unknownOpcode

/-- A line to an instruction of the table or the named error that rejects it: every `ParseError`
comes before the lookup (R72, R100). -/
def decodeLine (r : ImmRange) (raw : Text) : Except ErrorKind Instr :=
  match parse r raw with
  | .error e => .error (.parse e)
  | .ok b =>
    match resolve b with
    | .error e => .error (.exec e)
    | .ok i => .ok i

/-! ### Writing a line (R81, R108) -/

/-- `dec(n)` of R108: decimal, no leading zeros. -/
def decText (n : Nat) : Text := Nat.toDigits 10 n

/-- `decSigned(n)` of R108: `-` before a negative number, no `+`. -/
def decSigned (n : Int) : Text := if n < 0 then '-' :: decText n.natAbs else decText n.toNat

/-- An operand's canonical token (R69, R71, R81). -/
def operandToken : Operand → Text
  | .register i => 'x' :: decSigned i
  | .immediate v => decSigned v

/-- The tokens with a separator between them. -/
def joinTokens (sep : Text) : List Text → Text
  | [] => []
  | [t] => t
  | t :: ts => t ++ sep ++ joinTokens sep ts

/-- The comma form of an instruction, the canonical spelling (R61, R81). -/
def encode (i : Instr) : Text :=
  i.row.mnemonic ++ [' '] ++ joinTokens [',', ' '] (i.operands.map operandToken)

/-- The space form of an instruction (R61). -/
def encodeSpaced (i : Instr) : Text :=
  i.row.mnemonic ++ [' '] ++ joinTokens [' '] (i.operands.map operandToken)

/-! ### The informative binary words (R84; PRESUMED, log entry 5) -/

/-- Bits `hi` down to `lo` of a word as a number (R10). -/
def field (hi lo : Nat) (w : Word) : Nat := w.toNat / 2 ^ lo % 2 ^ (hi + 1 - lo)

/-- `sext_32(inst[31:20])` read signed (R84). -/
def immField (w : Word) : Int :=
  let n := field 31 20 w
  if n < 2048 then (n : Int) else (n : Int) - 4096

/-- The operands that R84's front end reads from a word, by format. -/
def wordOperands (f : Format) (w : Word) : List Operand :=
  match f with
  | .rType => [.register (field 11 7 w), .register (field 19 15 w), .register (field 24 20 w)]
  | .iType => [.register (field 11 7 w), .register (field 19 15 w), .immediate (immField w)]

/-- The word has a row's fixed bits: its opcode, funct3 and, where the row has one, funct7 (R84). -/
def OpcodeRow.hasFixedBits (row : OpcodeRow) (w : Word) : Bool :=
  field 6 0 w == row.opcode && field 14 12 w == row.funct3 &&
    match row.funct7 with
    | none => true
    | some f => field 31 25 w == f

/-- The front end of R84: the row whose fixed bits the word has, with the word's fields as operands;
`none` where no row has them. -/
def decodeWord (w : Word) : Option Instr :=
  match opcodeTable.find? fun row => row.hasFixedBits w with
  | some row => some (row.build (wordOperands row.format w))
  | none => none

/-- A row's opcode and funct3 with `rd` in bits 11 to 7, `rs1` in 19 to 15 and `top` from bit 20 up
(R84). -/
def packWord (row : OpcodeRow) (rd rs1 top : Nat) : Word :=
  BitVec.ofNat 32 (row.opcode + rd * 2 ^ 7 + row.funct3 * 2 ^ 12 + rs1 * 2 ^ 15 + top * 2 ^ 20)

/-- The informative word of an instruction; `none` where it has none (R84). -/
def encodeWord (i : Instr) : Option Word :=
  if i.hasWord then
    match i.operands with
    | [.register d, .register a, .register b] =>
      some (packWord i.row d.toNat a.toNat (b.toNat + i.row.funct7.getD 0 * 2 ^ 5))
    | [.register d, .register a, .immediate v] => some (packWord i.row d.toNat a.toNat (v % 2 ^ 12).toNat)
    | _ => none
  else none

/-- The word whose bits the opcode table numbers as `w`: the low `nbits` bits of `w`, zero above. -/
def tableWord (nbits w : Nat) : Word := BitVec.ofNat 32 (w % 2 ^ nbits)

/-- The instruction the binary front end reads from a word of the opcode table. -/
def decodeTableWord (nbits w : Nat) : Option Instr := decodeWord (tableWord nbits w)

end Sys2Proof
end

