-- ==== Sys2Proof/Machine/State.lean ====
section
/-! DEFINITION. The machine's state: the Register File, which is "the sole piece of persistent state"
(10_state.md R20, R31), the ports of 40_execution.md R116 as plain data, and the parameter `ImmRange`.
The spec gives the machine no program counter, flags, CSRs, memory, modes or trap registers (R26 to
R30), so State has no field for one. -/

namespace Sys2Proof.Machine

/-- The Register File: 32 slots of 32 bits, none hard-wired, slot 0 included (R20, R22). -/
abbrev RegFile := Vector Word 32

/-- `WriteEffect { destRegister, newValue }` (R107). -/
structure WriteEffect where
  destRegister : Fin 32
  newValue : Int
deriving DecidableEq, Repr

/-- `ExecutionReport { effect, registerSnapshot, message }` (R107). -/
structure ExecutionReport where
  effect : Option WriteEffect
  registerSnapshot : RegFile
  message : Text
deriving DecidableEq, Repr

/-- The result of a transaction (R13): `Ok(report)` or `Err(e)`. -/
inductive Response where
  | ok (report : ExecutionReport)
  | err (e : ErrorKind)
deriving DecidableEq, Repr

/-- One thing the host does at the input ports (R116, R197). -/
inductive Request where
  /-- a pulse on `rst` (R210, R212) -/
  | rst
  /-- a transaction on `req_line` (R100) -/
  | line (text : Text)
  /-- a transaction on `req_bundle` (R83, R116) -/
  | bundle (b : Instruction)
  /-- a word at the optional binary front end of R84; PRESUMED, log entry 5 -/
  | word (w : Word)
deriving DecidableEq, Repr

/-- The machine's state. -/
structure State where
  /-- the Register File `x0` to `x31` (R20) -/
  x : RegFile
  /-- the host's stream, oldest first, one request a step (R48); the model's own field, log entry 1 -/
  requests : List Request
  /-- the response port after the step just done, `none` while `resp_valid` is 0 (R116); nothing
  reads it; the model's own field, log entry 2 -/
  response : Option Response
  /-- the parameter `ImmRange` (R8, R9); no step changes it; log entry 3 -/
  immRange : ImmRange
deriving DecidableEq, Repr

/-- The machine has no fault: "No behaviour of the executor is a `fault` or `stuck`"
(93_implementation_defined.md), and an error is an ordinary outcome (60_exceptions.md R189). -/
inductive Fault
deriving DecidableEq, Repr

/-- Why a step gives a request no meaning. -/
inductive Refusal where
  /-- Raised by an arm of `exec` that has no meaning yet; none is left. Safe. -/
  | notModelled (mnemonic : String)
  /-- Raised by `fetch` on a bundle, or on a word's decoded bundle, with an immediate outside
  `ImmRange`: "A bundle that is not well formed is refused: the model gives it no meaning" (R83).
  Safe. -/
  | bundleNotWellFormed
  /-- Raised by `fetch` on a word that no row of R84 matches: the executor has no binary input, so
  the spec gives such a word nothing (log entry 5). Safe. -/
  | wordNotInTable
deriving DecidableEq, Repr

/-- What the head of the host's stream asks of the machine, decoded. -/
inductive Fetched where
  /-- no request is presented (R211) -/
  | idle
  /-- `rst` is pulsed (R210) -/
  | rst
  /-- the request is an instruction of the Opcode Table -/
  | run (i : Instr)
  /-- the parser or the lookup of step 1 rejects the request (R72, R101) -/
  | reject (e : ErrorKind)
  /-- the request has no meaning -/
  | refuse (r : Refusal)
deriving DecidableEq, Repr

/-- The machine right after reset (R210): every slot 0; no request, no response (log entries 1 and
2); the default `ImmRange` (R9). -/
def State.reset : State where
  x := Vector.replicate 32 0
  requests := []
  response := none
  immRange := Config.defaultImmRange

end Sys2Proof.Machine
end

