-- ==== Sys2Proof/Machine/Report.lean ====
section
/-! DEFINITION. The report's message and the Report Formatter (40_execution.md R107, R108, R114,
R115), the numeric error codes (60_exceptions.md R180) and the output ports (R116). -/

namespace Sys2Proof.Machine

/-- `"Register " ++ dec(rd) ++ " set to " ++ decSigned(signed(v))` (R108). -/
def reportMessage (rd : Fin 32) (v : Word) : Text :=
  ['R', 'e', 'g', 'i', 's', 't', 'e', 'r', ' '] ++ decText rd.val
    ++ [' ', 's', 'e', 't', ' ', 't', 'o', ' '] ++ decSigned (signed v)

/-- The report of a transaction that wrote `v` to slot `rd` and left the file `after` (R107). -/
def makeReport (rd : Fin 32) (v : Word) (after : RegFile) : ExecutionReport where
  effect := some { destRegister := rd, newValue := signed v }
  registerSnapshot := after
  message := reportMessage rd v

/-- One line of the dump: `x<i>: <value>` and a line feed (R114). -/
def dumpLine (x : RegFile) (i : Fin 32) : Text :=
  ['x'] ++ decText i.val ++ [':', ' '] ++ decSigned (signed x[i]) ++ ['\n']

/-- The Report Formatter, `format(report)` (R114). -/
def formatReport (r : ExecutionReport) : Text :=
  r.message ++ ['\n'] ++ (List.finRange 32).flatMap (dumpLine r.registerSnapshot)

/-- The code of an error on `resp_err_code`; 0 would be no error (R180). -/
def errorCode : ErrorKind → BitVec 4
  | .parse .empty => 1
  | .parse .badArity => 2
  | .parse .badRegisterToken => 3
  | .parse .badImmediate => 4
  | .exec .unknownOpcode => 5
  | .exec .unsupportedOpcode => 6
  | .exec .operandKindMismatch => 7
  | .exec (.registerOutOfRange _) => 8

/-- `resp_valid` (R116). -/
def respValid (s : State) : Bool := s.response.isSome

/-- `resp_ok`; `none` while there is no response (R116; log entry 7). -/
def respOk (s : State) : Option Bool :=
  match s.response with
  | some (.ok _) => some true
  | some (.err _) => some false
  | none => none

/-- `resp_report`, valid when `resp_ok` is 1 (R116). -/
def respReport (s : State) : Option ExecutionReport :=
  match s.response with
  | some (.ok r) => some r
  | _ => none

/-- `resp_err_code`, valid when `resp_ok` is 0 (R116, R180). -/
def respErrCode (s : State) : Option (BitVec 4) :=
  match s.response with
  | some (.err e) => some (errorCode e)
  | _ => none

/-- `resp_err_index`, valid when the code is that of `RegisterOutOfRange` (R116, R188). -/
def respErrIndex (s : State) : Option Int :=
  match s.response with
  | some (.err (.exec (.registerOutOfRange i))) => some i
  | _ => none

/-- The `snapshot` port: the 32 slots, readable between transactions (R32, R116). -/
def snapshot (s : State) : RegFile := s.x

end Sys2Proof.Machine
end

