-- ==== Sys2Proof/Machine/Ops.lean ====
section
/-! DEFINITION. The named operations over the state: reading and writing a slot, ending a transaction
with a report or an error, reset, idling, and taking the next request from the host's stream. -/

namespace Sys2Proof.Machine

/-- `x[i]` (00_scope.md R11): every slot alike, slot 0 included (R22). -/
def readSlot (s : State) (i : Fin 32) : Word := s.x[i]

/-- `x[i] <- v` (R11, R106): unconditional, slot 0 included (R22). -/
def writeSlot (s : State) (i : Fin 32) (v : Word) : State := { s with x := s.x.set i.val v i.isLt }

/-- `raise E(info)` (R11, R110, R189): the transaction ends with the error on the response port and
the Register File as it was. No trap is taken and nothing is saved: this is all that an error does. -/
def raise (s : State) (e : ErrorKind) : State := { s with response := some (.err e) }

/-- Steps 6 and 7 (R106, R107): write the result, then return the report with the snapshot taken
after the write. -/
def complete (s : State) (rd : Fin 32) (v : Word) : State :=
  let t := writeSlot s rd v
  { t with response := some (.ok (makeReport rd v t.x)) }

/-- A pulse on `rst` (R210, R212): every slot 0 and nothing returned. What the host presents next
and the parameter `ImmRange` are not the executor's to change. -/
def pulseReset (s : State) : State := { s with x := Vector.replicate 32 0, response := none }

/-- A step in which the host presents nothing (R211): no response; DEDUCED, log entry 4. -/
def idle (s : State) : State := { s with response := none }

/-- The request at the head of the stream has been taken (R48). -/
def takeRequest (s : State) : State := { s with requests := s.requests.tail }

/-- The instruction a decoded bundle is, or why it is none: first the well-formedness of R83, then
the lookup of step 1 (R101). A bundle skips the parser (R116). -/
def fetchBundle (r : ImmRange) (b : Instruction) : Fetched :=
  if b.wellFormed r then
    match resolve b with
    | .ok i => .run i
    | .error e => .reject (.exec e)
  else .refuse .bundleNotWellFormed

/-- A line through the parser and the lookup (R100). -/
def fetchLine (r : ImmRange) (l : Text) : Fetched :=
  match decodeLine r l with
  | .ok i => .run i
  | .error e => .reject e

/-- A word through the binary front end, then as the bundle it stands for (R84). -/
def fetchWord (r : ImmRange) (w : Word) : Fetched :=
  match decodeWord w with
  | some i => if i.wellFormed r then .run i else .refuse .bundleNotWellFormed
  | none => .refuse .wordNotInTable

/-- What the host's next request asks for. -/
def fetchRequest (r : ImmRange) : Request → Fetched
  | .rst => .rst
  | .line l => fetchLine r l
  | .bundle b => fetchBundle r b
  | .word w => fetchWord r w

/-- The head of the host's stream, decoded; idle when the stream is empty (R48, R211). -/
def fetch (s : State) : Fetched :=
  match s.requests with
  | [] => .idle
  | q :: _ => fetchRequest s.immRange q

end Sys2Proof.Machine
end

