-- ==== Sys2Proof/Machine/Operands.lean ====
section
/-! DEFINITION. Steps 2 to 4 of the Execution Engine (40_execution.md R102 to R104) and the shape that
every computing instruction shares. -/

namespace Sys2Proof.Machine

/-- The second source of a validated instruction: a slot, or a literal (R104). -/
inductive Source where
  | slot (i : Fin 32)
  | literal (v : Int)
deriving DecidableEq, Repr

/-- Operands that have passed steps 2 and 3. -/
structure Validated where
  rd : Fin 32
  rs1 : Fin 32
  src2 : Source
deriving DecidableEq, Repr

/-- Step 3 on one register operand: its slot, or `RegisterOutOfRange` with the index (R103). -/
def slotOf (i : Int) : Except ExecError (Fin 32) :=
  if h : 0 ≤ i ∧ i ≤ 31 then .ok ⟨i.toNat, by omega⟩ else .error (.registerOutOfRange i)

/-- Steps 2 and 3: first the count and the kinds of the format (R102), then the register indices in
operand order, the destination first (R103). -/
def validate (f : Format) (ops : List Operand) : Except ExecError Validated :=
  match f, ops with
  | .rType, [.register d, .register a, .register b] => do
    let rd ← slotOf d
    let rs1 ← slotOf a
    let rs2 ← slotOf b
    return { rd := rd, rs1 := rs1, src2 := .slot rs2 }
  | .iType, [.register d, .register a, .immediate v] => do
    let rd ← slotOf d
    let rs1 ← slotOf a
    return { rd := rd, rs1 := rs1, src2 := .literal v }
  | _, _ => .error .operandKindMismatch

/-- Step 4 for the second source: a slot's value, or the literal unscaled as `bv32(v)` (R75, R104). -/
def sourceValue (s : State) : Source → Word
  | .slot i => readSlot s i
  | .literal v => bv32 v

/-- Steps 2 to 7 around the operation of step 5: validate, read both sources from the file as it was
when the transaction began, compute, write, report (R102 to R107). -/
def compute (f : Format) (op : Word → Word → Word) (ops : List Operand) (s : State) :
    Host.Outcome State Fault Refusal :=
  match validate f ops with
  | .error e => .next (raise s (.exec e))
  | .ok v => .next (complete s v.rd (op (readSlot s v.rs1) (sourceValue s v.src2)))

end Sys2Proof.Machine
end

