-- ==== Sys2Proof/Machine/Arith.lean ====
section
/-! DEFINITION. The arithmetic R-type instructions `add`, `sub` and `mul` (41_arith.md R130 to R132):
computed exactly on integers, then reduced modulo 2^32 (40_execution.md R113). No flag exists. -/

namespace Sys2Proof.Machine

/-- `bv32(unsigned(a) + unsigned(b))` (R130). -/
def sumOp (a b : Word) : Word := bv32 (unsigned a + unsigned b)

/-- `bv32(unsigned(a) - unsigned(b))` (R131): first source minus second. -/
def differenceOp (a b : Word) : Word := bv32 (unsigned a - unsigned b)

/-- `bv32(unsigned(a) * unsigned(b))` (R132): the low 32 bits of the product. -/
def productOp (a b : Word) : Word := bv32 (unsigned a * unsigned b)

/-- `add` (R130). -/
def execAdd (ops : List Operand) (s : State) : Host.Outcome State Fault Refusal :=
  compute .rType sumOp ops s

/-- `sub` (R131). -/
def execSub (ops : List Operand) (s : State) : Host.Outcome State Fault Refusal :=
  compute .rType differenceOp ops s

/-- `mul` (R132). -/
def execMul (ops : List Operand) (s : State) : Host.Outcome State Fault Refusal :=
  compute .rType productOp ops s

end Sys2Proof.Machine
end

