-- ==== Sys2Proof/Machine/Immediate.lean ====
section
/-! DEFINITION. The I-type instruction `addi` (43_immediate.md R150). -/

namespace Sys2Proof.Machine

/-- `bv32(unsigned(a) + unsigned(b))` with `b = bv32(imm)` (R150). -/
def sumImmOp (a b : Word) : Word := bv32 (unsigned a + unsigned b)

/-- `addi` (R150). -/
def execAddi (ops : List Operand) (s : State) : Host.Outcome State Fault Refusal :=
  compute .iType sumImmOp ops s

end Sys2Proof.Machine
end

