-- ==== Sys2Proof/Machine/Shift.lean ====
section
/-! DEFINITION. The shift R-type instruction `sll` (42_shift.md R140, R141). -/

namespace Sys2Proof.Machine

/-- The shift amount `unsigned(b) mod 32`, in `[0, 31]` (R141). -/
def shiftAmount (b : Word) : Nat := b.toNat % 32

/-- `a << k` is `bv32(unsigned(a) * 2^k)` (R10, R140). -/
def shiftLeftOp (a b : Word) : Word := bv32 (unsigned a * 2 ^ shiftAmount b)

/-- `sll` (R140). -/
def execSll (ops : List Operand) (s : State) : Host.Outcome State Fault Refusal :=
  compute .rType shiftLeftOp ops s

end Sys2Proof.Machine
end

