-- ==== Sys2Proof/Machine/Unsupported.lean ====
section
/-! DEFINITION. The seven known-but-unimplemented instructions (44_unsupported.md R160 to R167). Their
effect, as the spec gives it, is to end the transaction with `UnsupportedOpcode` at step 1, whatever
their operands. -/

namespace Sys2Proof.Machine

/-- `raise ExecError::UnsupportedOpcode` (R160): no operand is looked at and no slot changes. -/
def rejectUnsupported (s : State) : Host.Outcome State Fault Refusal :=
  .next (raise s (.exec .unsupportedOpcode))

/-- `slt` (R161). -/
def execSlt (_ops : List Operand) (s : State) : Host.Outcome State Fault Refusal := rejectUnsupported s

/-- `sltu` (R162). -/
def execSltu (_ops : List Operand) (s : State) : Host.Outcome State Fault Refusal := rejectUnsupported s

/-- `xor` (R163). -/
def execXor (_ops : List Operand) (s : State) : Host.Outcome State Fault Refusal := rejectUnsupported s

/-- `srl` (R164). -/
def execSrl (_ops : List Operand) (s : State) : Host.Outcome State Fault Refusal := rejectUnsupported s

/-- `sra` (R165). -/
def execSra (_ops : List Operand) (s : State) : Host.Outcome State Fault Refusal := rejectUnsupported s

/-- `or` (R166). -/
def execOr (_ops : List Operand) (s : State) : Host.Outcome State Fault Refusal := rejectUnsupported s

/-- `and` (R167). -/
def execAnd (_ops : List Operand) (s : State) : Host.Outcome State Fault Refusal := rejectUnsupported s

end Sys2Proof.Machine
end

