-- ==== Sys2Proof/Machine/Dispatch.lean ====
section
/-! DEFINITION. One arm per constructor of Instr: the call of its meaning (30_encoding.md R76). -/

namespace Sys2Proof.Machine

def exec (i : Instr) (s : State) : Host.Outcome State Fault Refusal :=
  match i with
  | .add ops => Sys2Proof.Machine.execAdd ops s
  | .sub ops => Sys2Proof.Machine.execSub ops s
  | .mul ops => Sys2Proof.Machine.execMul ops s
  | .sll ops => Sys2Proof.Machine.execSll ops s
  | .addi ops => Sys2Proof.Machine.execAddi ops s
  | .slt ops => Sys2Proof.Machine.execSlt ops s
  | .sltu ops => Sys2Proof.Machine.execSltu ops s
  | .xor ops => Sys2Proof.Machine.execXor ops s
  | .srl ops => Sys2Proof.Machine.execSrl ops s
  | .sra ops => Sys2Proof.Machine.execSra ops s
  | .or ops => Sys2Proof.Machine.execOr ops s
  | .and ops => Sys2Proof.Machine.execAnd ops s

end Sys2Proof.Machine
end

