-- ==== Sys2Proof/Machine/Step.lean ====
section
/-! DEFINITION. One step: one request, one response and at most one register write (40_execution.md
R117). -/

namespace Sys2Proof.Machine

/-- Take the host's next request and carry its transaction out whole (R45, R100, R117). -/
def step (s : State) : Host.Outcome State Fault Refusal :=
  match fetch s with
  | .idle => .next (idle s)
  | .rst => .next (pulseReset (takeRequest s))
  | .run i => exec i (takeRequest s)
  | .reject e => .next (raise (takeRequest s) e)
  | .refuse r => .refused r

/-- The state in which the host presents next the word whose bits the opcode table numbers as `w`
(log entries 5 and 8): only the head of the host's stream is added. -/
def State.withFetchWord (s : State) (nbits w : Nat) : State :=
  { s with requests := .word (tableWord nbits w) :: s.requests }

end Sys2Proof.Machine
end

