-- ==== Sys2Proof/Safety.lean ====
section
/-! DEFINITION. The terms that claims use: the engine and the transaction written once more in the
spec's own steps (40_execution.md R100 to R107), apart from the machine's meanings, and what the host
may present for a run never to stop (60_exceptions.md R189, R197). -/

namespace Sys2Proof.Safety

open Sys2Proof.Machine

/-- The mnemonics with wired semantics (R76). -/
def implementedMnemonics : List Text :=
  ["add".toList, "sub".toList, "mul".toList, "sll".toList, "addi".toList]

/-- The known-but-unimplemented mnemonics (R78). -/
def unsupportedMnemonics : List Text :=
  ["slt".toList, "sltu".toList, "xor".toList, "srl".toList, "sra".toList, "or".toList, "and".toList]

/-- The Opcode Table's classes (R76): `none` for an unknown mnemonic, `some none` for a
known-but-unimplemented one, else the format and the operation of step 5 in R10's notation. -/
def semantics (opcode : Text) : Option (Option (Format × (Word → Word → Word))) :=
  if opcode = "add".toList then some (some (.rType, fun a b => a + b))
  else if opcode = "sub".toList then some (some (.rType, fun a b => a - b))
  else if opcode = "mul".toList then some (some (.rType, fun a b => a * b))
  else if opcode = "sll".toList then some (some (.rType, fun a b => a <<< (b.toNat % 32)))
  else if opcode = "addi".toList then some (some (.iType, fun a b => a + b))
  else if opcode ∈ unsupportedMnemonics then some none
  else none

/-- An instruction with wired semantics: `add`, `sub`, `mul`, `sll`, `addi` (R76). -/
def implemented : Instr → Bool
  | .add _ | .sub _ | .mul _ | .sll _ | .addi _ => true
  | .slt _ | .sltu _ | .xor _ | .srl _ | .sra _ | .or _ | .and _ => false

/-- The operand list of one valid computing instruction: three slots, or two slots and a literal. -/
def slotOperands (f : Format) (rd rs1 rs2 : Fin 32) (v : Int) : List Operand :=
  match f with
  | .rType => [.register rd.val, .register rs1.val, .register rs2.val]
  | .iType => [.register rd.val, .register rs1.val, .immediate v]

/-- A text of whitespace characters only. -/
def Blank (s : Text) : Prop := ∀ c ∈ s, isSpace c = true

/-- A non-empty text with no whitespace character: an opcode token (R63). -/
def Solid (t : Text) : Prop := t ≠ [] ∧ ∀ c ∈ t, isSpace c = false

/-- A non-empty text with no whitespace character and no comma: an operand token (R65, R66). -/
def Token (t : Text) : Prop := Solid t ∧ ',' ∉ t

/-- A non-empty string of the ten ASCII digits (R12). -/
def DigitString (d : Text) : Prop := d ≠ [] ∧ ∀ c ∈ d, c ∈ "0123456789".toList

/-- `x` and a digit string: a register token (R69). -/
def RegisterToken (t : Text) : Prop := ∃ d, t = 'x' :: d ∧ DigitString d

/-- The index of a register operand outside `[0,31]` (R103). -/
def badIndex : Operand → Option Int
  | .register i => if i < 0 ∨ i > 31 then some i else none
  | .immediate _ => none

/-- The slot a register operand names; read only after step 3. -/
def slotNumber : Operand → Fin 32
  | .register i => Fin.ofNat 32 i.toNat
  | .immediate _ => 0

/-- The value a source operand contributes (R104). -/
def operandValue (X : RegFile) : Operand → Word
  | .register i => X[Fin.ofNat 32 i.toNat]
  | .immediate v => BitVec.ofInt 32 v

/-- `execute(instr, X)` in the seven steps of R101 to R107. -/
def execute (instr : Instruction) (X : RegFile) : Except ExecError (ExecutionReport × RegFile) :=
  match semantics instr.opcode with
  | none => .error .unknownOpcode
  | some none => .error .unsupportedOpcode
  | some (some (fmt, op)) =>
    if instr.operands.length ≠ 3 ∨ instr.operands.map Operand.kind ≠ fmt.kinds then .error .operandKindMismatch
    else match instr.operands.findSome? badIndex with
      | some i => .error (.registerOutOfRange i)
      | none =>
        let rd := slotNumber (instr.operands.getD 0 (.register 0))
        let v := op (operandValue X (instr.operands.getD 1 (.register 0)))
          (operandValue X (instr.operands.getD 2 (.register 0)))
        let X' := X.set rd.val v rd.isLt
        .ok (makeReport rd v X', X')

/-- The outcome ends the transaction with error `e`: that error on the response port and nothing else
changed (R11, R110). -/
def EndsWith (s : State) (e : ExecError) (o : Host.Outcome State Fault Refusal) : Prop :=
  o = .next { s with response := some (.err (.exec e)) }

/-- The outcome is a successful transaction that wrote `v` to slot `rd`: the slot holds it, every
other slot, the host's stream and the parameter are as before (R109), and the response is the report
of R107 with the message of R108. -/
def Writes (s : State) (rd : Fin 32) (v : Word) (o : Host.Outcome State Fault Refusal) : Prop :=
  ∃ t, o = .next t ∧ t.x[rd] = v ∧ (∀ j : Fin 32, j ≠ rd → t.x[j] = s.x[j]) ∧
    t.requests = s.requests ∧ t.immRange = s.immRange ∧
    t.response = some (.ok {
      effect := some { destRegister := rd, newValue := signed v }
      registerSnapshot := t.x
      message := "Register ".toList ++ decText rd.val ++ " set to ".toList ++ decSigned (signed v) })

/-- The errors of an implemented instruction of a format: a wrong count or kind first (R102), then
the first register index outside `[0,31]` in operand order (R103). -/
def ErrsBy (mk : List Operand → Instr) (f : Format) (s : State) : Prop :=
  (∀ ops, ops.map Operand.kind ≠ f.kinds → EndsWith s .operandKindMismatch (exec (mk ops) s)) ∧
  (∀ ops i, ops.map Operand.kind = f.kinds → ops.findSome? badIndex = some i →
    EndsWith s (.registerOutOfRange i) (exec (mk ops) s))

/-- `m` is the mnemonic of an R-type instruction that writes `op x[rs1] x[rs2]` to `x[rd]` for every
three slots, slot 0 and equal slots included, and errs as its format says on every other operand list. -/
def FollowsRType (m : Text) (mk : List Operand → Instr) (op : Word → Word → Word) : Prop :=
  (∀ ops, resolve { opcode := m, operands := ops } = .ok (mk ops)) ∧
  ∀ s : State,
    (∀ rd rs1 rs2 : Fin 32,
      Writes s rd (op s.x[rs1] s.x[rs2])
        (exec (mk [.register rd.val, .register rs1.val, .register rs2.val]) s)) ∧
    ErrsBy mk .rType s

/-- The outcome of a decoded bundle: the engine alone (R116). -/
def transactBundle (b : Instruction) (X : RegFile) : Response × RegFile :=
  match execute b X with
  | .error e => (.err (.exec e), X)
  | .ok (report, X') => (.ok report, X')

/-- `transact(line, X)` (R100). -/
def transact (r : ImmRange) (line : Text) (X : RegFile) : Response × RegFile :=
  match parse r line with
  | .error e => (.err (.parse e), X)
  | .ok b => transactBundle b X

/-- The Register File after one request that has a meaning (R48, R100, R210). -/
def serve (r : ImmRange) (X : RegFile) : Request → RegFile
  | .rst => Vector.replicate 32 0
  | .line l => (transact r l X).2
  | .bundle b => (transactBundle b X).2
  | .word w =>
    match decodeWord w with
    | some i => (transactBundle { opcode := i.row.mnemonic, operands := i.operands } X).2
    | none => X

/-- The request has a meaning: a reset and every line have one (R189), a bundle when it is well
formed (R83), a word when the front end reads an instruction that is well formed (R84). -/
def admissible (r : ImmRange) : Request → Bool
  | .rst => true
  | .line _ => true
  | .bundle b => b.wellFormed r
  | .word w =>
    match decodeWord w with
    | some i => i.wellFormed r
    | none => false

/-- Everything the host has still to present has a meaning. -/
def Servable (s : State) : Prop := ∀ q ∈ s.requests, admissible s.immRange q = true

/-- A report on the response port tells the truth about the Register File (R107): one write effect,
whose destination holds the reported value, read signed; the snapshot is the file; the message is
that of R108. -/
def ReportTrue (s : State) : Prop :=
  ∀ report, s.response = some (.ok report) →
    report.registerSnapshot = s.x ∧
    ∃ rd : Fin 32, report.effect = some { destRegister := rd, newValue := signed s.x[rd] } ∧
      report.message = "Register ".toList ++ decText rd.val ++ " set to ".toList ++ decSigned (signed s.x[rd])

/-- The parameter `ImmRange` holds signed 32-bit values only (R9). -/
def ParameterLegal (s : State) : Prop := s.immRange.fits32 = true

end Sys2Proof.Safety
end

