-- ==== Sys2Proof/Certificates/Slice0/Obligations.lean ====
section
/-! DEFINITION. The statements about the executor, from the spec's numbered rules. -/

open Sys2Proof Sys2Proof.Machine Sys2Proof.Safety

/-! ### Reset, idling and the host's stream -/

/-- R210: after reset all 32 slots hold 0, and a pulse on `rst` sets that state from every state. -/
def Obligations.ResetClearsEverySlot : Prop :=
  (∀ i : Fin 32, State.reset.x[i] = 0) ∧
  ∀ (s : State) (rest : List Request), s.requests = .rst :: rest →
    ∃ t, step s = .next t ∧ ∀ i : Fin 32, t.x[i] = 0

/-- R197, R212: what the model's `rst` leaves alone (log entry 9): the rest of the host's stream, the
parameter; and no response is given. -/
def Obligations.RstReturnsNothing : Prop :=
  ∀ (s : State) (rest : List Request), s.requests = .rst :: rest →
    ∃ t, step s = .next t ∧ t.requests = rest ∧ t.immRange = s.immRange ∧ respValid t = false

/-- R211: with nothing presented the executor is idle (log entry 4). -/
def Obligations.IdleStepChangesNoSlot : Prop :=
  ∀ s : State, s.requests = [] →
    ∃ t, step s = .next t ∧ t.x = s.x ∧ t.requests = [] ∧ t.immRange = s.immRange ∧ respValid t = false

/-- R83, R100: the instruction that a line or a well-formed bundle decodes to is what the step executes,
after taking the request. The last two clauses are the model's: that there is a binary front end at all
is log entry 5 (PRESUMED), and that `withFetchWord` presents a word to it is log entry 8 (DEDUCED). -/
def Obligations.StepRunsDecodedInstruction : Prop :=
  (∀ (s : State) (l : Text) (rest : List Request) (i : Instr), s.requests = .line l :: rest →
    decodeLine s.immRange l = .ok i → step s = exec i { s with requests := rest }) ∧
  (∀ (s : State) (b : Instruction) (rest : List Request) (i : Instr), s.requests = .bundle b :: rest →
    b.wellFormed s.immRange = true → resolve b = .ok i → step s = exec i { s with requests := rest }) ∧
  (∀ (s : State) (w : Word) (rest : List Request) (i : Instr), s.requests = .word w :: rest →
    decodeWord w = some i → i.wellFormed s.immRange = true → step s = exec i { s with requests := rest }) ∧
  (∀ (s : State) (nbits w : Nat) (i : Instr), decodeTableWord nbits w = some i →
    i.wellFormed s.immRange = true → step (s.withFetchWord nbits w) = exec i s)

/-! ### The computing instructions -/

/-- R130. -/
def Obligations.AddWritesSum : Prop := FollowsRType "add".toList .add fun a b => a + b

/-- R131. -/
def Obligations.SubWritesDifference : Prop := FollowsRType "sub".toList .sub fun a b => a - b

/-- R132. -/
def Obligations.MulWritesLowProduct : Prop := FollowsRType "mul".toList .mul fun a b => a * b

/-- R140. -/
def Obligations.SllWritesShifted : Prop := FollowsRType "sll".toList .sll fun a b => a <<< (b.toNat % 32)

/-- R150. -/
def Obligations.AddiWritesSumWithLiteral : Prop :=
  (∀ ops, resolve { opcode := "addi".toList, operands := ops } = .ok (.addi ops)) ∧
  ∀ s : State,
    (∀ (rd rs1 : Fin 32) (v : Int), s.immRange.contains v = true →
      Writes s rd (s.x[rs1] + BitVec.ofInt 32 v)
        (exec (.addi [.register rd.val, .register rs1.val, .immediate v]) s)) ∧
    ErrsBy .addi .iType s

/-- R113: exact integer arithmetic reduced modulo 2^32, the same for signed and unsigned readings, no
operand value is an error, and no division or remainder instruction is known. -/
def Obligations.ArithmeticIsModuloWordSize : Prop :=
  (∀ (s : State) (rd rs1 rs2 : Fin 32) (v : Int),
    Writes s rd (bv32 (unsigned s.x[rs1] + unsigned s.x[rs2])) (exec (.add (slotOperands .rType rd rs1 rs2 v)) s) ∧
    Writes s rd (bv32 (unsigned s.x[rs1] - unsigned s.x[rs2])) (exec (.sub (slotOperands .rType rd rs1 rs2 v)) s) ∧
    Writes s rd (bv32 (unsigned s.x[rs1] * unsigned s.x[rs2])) (exec (.mul (slotOperands .rType rd rs1 rs2 v)) s) ∧
    (s.immRange.contains v = true →
      Writes s rd (bv32 (unsigned s.x[rs1] + v)) (exec (.addi (slotOperands .iType rd rs1 rs2 v)) s))) ∧
  (∀ a b : Word,
    bv32 (unsigned a + unsigned b) = bv32 (signed a + signed b) ∧
    bv32 (unsigned a - unsigned b) = bv32 (signed a - signed b) ∧
    bv32 (unsigned a * unsigned b) = bv32 (signed a * signed b)) ∧
  (∀ ops : List Operand, ∀ m ∈ ["div".toList, "divu".toList, "rem".toList, "remu".toList],
    resolve { opcode := m, operands := ops } = .error .unknownOpcode)

/-- R141: the amount of `sll` is the mathematical modulus of the second source, read either way, which
is its low five bits, always in `[0, 31]`. -/
def Obligations.ShiftAmountIsLowFiveBits : Prop :=
  ∀ (s : State) (rd rs1 rs2 : Fin 32), ∃ k : Nat,
    (k : Int) = signed s.x[rs2] % 32 ∧ (k : Int) = unsigned s.x[rs2] % 32 ∧
    k = (s.x[rs2].extractLsb 4 0).toNat ∧ k ≤ 31 ∧
    Writes s rd (bv32 (unsigned s.x[rs1] * 2 ^ k)) (exec (.sll (slotOperands .rType rd rs1 rs2 0)) s)

/-- R22: no slot is hard-wired; the result of an instruction whose destination is `x0` is stored there
and later reads return it. -/
def Obligations.SlotZeroIsWritable : Prop :=
  (∀ (s : State) (i j : Fin 32) (v : Word),
    readSlot (writeSlot s i v) j = if j = i then v else readSlot s j) ∧
  (∀ (i : Instr) (s : State) (a b d : Fin 32) (v : Int), implemented i = true →
    i.operands = slotOperands i.format 0 a b v →
    ∃ t u report, exec i s = .next t ∧ t.response = some (.ok report) ∧
      report.effect = some { destRegister := 0, newValue := signed t.x[(0 : Fin 32)] } ∧
      readSlot t 0 = t.x[(0 : Fin 32)] ∧
      exec (.add (slotOperands .rType d 0 0 v)) t = .next u ∧
      u.x[d] = t.x[(0 : Fin 32)] + t.x[(0 : Fin 32)])

/-- R213: from a file whose `x0` is 0, `addi x<n>, x0, <v>` gives slot `n` the chosen value, any signed
32-bit value in the range. -/
def Obligations.AddiLoadsChosenValue : Prop :=
  ∀ (s : State) (n : Fin 32) (v : Int), s.x[(0 : Fin 32)] = 0 → ParameterLegal s →
    s.immRange.contains v = true →
    ∃ t, exec (.addi [.register n.val, .register 0, .immediate v]) s = .next t ∧ signed t.x[n] = v

/-- R112: a source that is also the destination is read before the write, in all five instructions. -/
def Obligations.SourceIsReadBeforeDestination : Prop :=
  ∀ (s : State) (r q : Fin 32) (v : Int), s.immRange.contains v = true →
    Writes s r (s.x[r] + s.x[r]) (exec (.add (slotOperands .rType r r r v)) s) ∧
    Writes s r (s.x[q] - s.x[r]) (exec (.sub (slotOperands .rType r q r v)) s) ∧
    Writes s r (s.x[r] * s.x[q]) (exec (.mul (slotOperands .rType r r q v)) s) ∧
    Writes s r (s.x[r] <<< (s.x[r].toNat % 32)) (exec (.sll (slotOperands .rType r r r v)) s) ∧
    Writes s r (s.x[r] + BitVec.ofInt 32 v) (exec (.addi (slotOperands .iType r r q v)) s)

/-! ### Errors of the engine -/

/-- R161 to R167: the seven unsupported instructions end with `UnsupportedOpcode`, whatever their
operands, and change nothing else. -/
def Obligations.SevenRaiseUnsupported : Prop :=
  ∀ (i : Instr) (s : State), implemented i = false → EndsWith s .unsupportedOpcode (exec i s)

/-- R160: any line that parses with one of the seven mnemonics ends with `UnsupportedOpcode` and leaves
every slot unchanged; a line that does not parse gives its `ParseError` instead. -/
def Obligations.UnsupportedLinesRejected : Prop :=
  ∀ (s : State) (l : Text) (rest : List Request), s.requests = .line l :: rest →
    (∀ b, parse s.immRange l = .ok b → b.opcode ∈ unsupportedMnemonics →
      step s = .next { s with requests := rest, response := some (.err (.exec .unsupportedOpcode)) }) ∧
    (∀ e, parse s.immRange l = .error e →
      step s = .next { s with requests := rest, response := some (.err (.parse e)) })

/-- R77: every mnemonic outside the table of twelve is unknown, once its line parses. -/
def Obligations.UnknownMnemonicsRejected : Prop :=
  ∀ (s : State) (l : Text) (rest : List Request) (b : Instruction), s.requests = .line l :: rest →
    parse s.immRange l = .ok b → b.opcode ∉ implementedMnemonics ++ unsupportedMnemonics →
    step s = .next { s with requests := rest, response := some (.err (.exec .unknownOpcode)) }

/-- R102: a wrong count or a wrong tag is `OperandKindMismatch`; from text it is exactly an R-type
mnemonic with a third immediate or `addi` with a third register. -/
def Obligations.KindMismatchRule : Prop :=
  (∀ (i : Instr) (s : State), implemented i = true →
    (i.operands.length ≠ 3 ∨ i.operands.map Operand.kind ≠ i.format.kinds) →
    EndsWith s .operandKindMismatch (exec i s)) ∧
  (∀ (r : ImmRange) (l : Text) (i : Instr) (s : State), decodeLine r l = .ok i → implemented i = true →
    (EndsWith s .operandKindMismatch (exec i s) ↔
      (i.format = .rType ∧ ∃ v, i.operands[2]? = some (.immediate v)) ∨
      (i.format = .iType ∧ ∃ n, i.operands[2]? = some (.register n))))

/-- R103: the first register index outside `[0,31]` in operand order is the one reported. -/
def Obligations.FirstBadIndexReported : Prop :=
  ∀ (i : Instr) (s : State) (before after : List Operand) (n : Int), implemented i = true →
    i.operands.map Operand.kind = i.format.kinds → i.operands = before ++ .register n :: after →
    (∀ m, .register m ∈ before → 0 ≤ m ∧ m ≤ 31) → (n < 0 ∨ n > 31) →
    EndsWith s (.registerOutOfRange n) (exec i s)

/-- R180, R116: the eight kinds have the codes 1 to 8, and no other, and `resp_err_code` shows the code of
the error that ended the transaction, with `resp_err_index` beside code 8 only. -/
def Obligations.ErrorCodesAreOneToEight : Prop :=
  errorCode (.parse .empty) = 1 ∧ errorCode (.parse .badArity) = 2 ∧
  errorCode (.parse .badRegisterToken) = 3 ∧ errorCode (.parse .badImmediate) = 4 ∧
  errorCode (.exec .unknownOpcode) = 5 ∧ errorCode (.exec .unsupportedOpcode) = 6 ∧
  errorCode (.exec .operandKindMismatch) = 7 ∧ (∀ i, errorCode (.exec (.registerOutOfRange i)) = 8) ∧
  (∀ e, errorCode e ≠ 0 ∧ (errorCode e).toNat ≤ 8) ∧
  (∀ (t : State) (e : ErrorKind), t.response = some (.err e) → respErrCode t = some (errorCode e)) ∧
  (∀ t : State, (∃ n, respErrIndex t = some n) ↔ respErrCode t = some 8)

/-- R116, R188: the response ports after a transaction that names an index out of range. -/
def Obligations.RangeErrorOnPorts : Prop :=
  ∀ (i : Instr) (s : State) (n : Int), implemented i = true →
    i.operands.map Operand.kind = i.format.kinds → i.operands.findSome? badIndex = some n →
    ∃ t, exec i s = .next t ∧ snapshot t = snapshot s ∧ respValid t = true ∧ respOk t = some false ∧
      respErrCode t = some 8 ∧ respErrIndex t = some n ∧ respReport t = none

/-- R116, R180, R188: the response ports after a transaction on a line, whichever way it ends. With a
report, `resp_valid` and `resp_ok` are 1, `resp_report` is the report and no error is shown; with an
error, `resp_ok` is 0, `resp_err_code` is its code, and `resp_err_index` is the index of
`RegisterOutOfRange` and of no other kind. That a port which is not valid has no value is the model's
(log entry 7, DESIGN CHOICE). -/
def Obligations.ResponsePortsShowOutcome : Prop :=
  ∀ (s : State) (l : Text) (rest : List Request), s.requests = .line l :: rest →
    ∃ t, step s = .next t ∧ snapshot t = (transact s.immRange l s.x).2 ∧ respValid t = true ∧
      (∀ report, (transact s.immRange l s.x).1 = .ok report →
        respOk t = some true ∧ respReport t = some report ∧ respErrCode t = none ∧ respErrIndex t = none) ∧
      (∀ e, (transact s.immRange l s.x).1 = .err e →
        respOk t = some false ∧ respReport t = none ∧ respErrCode t = some (errorCode e) ∧
        ∀ n, respErrIndex t = some n ↔ e = .exec (.registerOutOfRange n))

/-- R116: what the ports show after an instruction of either class: a computing instruction with valid
operands shows its report, an unsupported one shows code 6. That a port which is not valid has no value
is the model's (log entry 7, DESIGN CHOICE). -/
def Obligations.ResponsePortsAfterInstruction : Prop :=
  (∀ (i : Instr) (s : State) (rd rs1 rs2 : Fin 32) (v : Int), implemented i = true →
    i.operands = slotOperands i.format rd rs1 rs2 v →
    ∃ t report, exec i s = .next t ∧ respValid t = true ∧ respOk t = some true ∧
      respReport t = some report ∧ report.registerSnapshot = snapshot t ∧
      report.effect = some { destRegister := rd, newValue := signed (snapshot t)[rd] } ∧
      respErrCode t = none ∧ respErrIndex t = none) ∧
  (∀ (i : Instr) (s : State), implemented i = false →
    ∃ t, exec i s = .next t ∧ snapshot t = snapshot s ∧ respValid t = true ∧ respOk t = some false ∧
      respReport t = none ∧ respErrCode t = some 6 ∧ respErrIndex t = none)

/-! ### Whole transactions -/

/-- R100: a step on a line is the transaction of R100, its engine written apart from the machine's
meanings (the parser is shared). -/
def Obligations.LineStepIsTransact : Prop :=
  ∀ (s : State) (l : Text) (rest : List Request), s.requests = .line l :: rest →
    step s = .next {
      x := (transact s.immRange l s.x).2
      requests := rest
      response := some (transact s.immRange l s.x).1
      immRange := s.immRange }

/-- R83: a bundle that is not well formed is refused; any other goes through the engine's steps 1 to 7
unchanged, whatever its count, kinds and indices. The opcode text is matched as it stands, so that one
with a capital letter is unknown: log entry 6 (DEDUCED). That a refusal ends the run is log entry 14
(DESIGN CHOICE). -/
def Obligations.BundleStepIsExecute : Prop :=
  ∀ (s : State) (b : Instruction) (rest : List Request), s.requests = .bundle b :: rest →
    ((∃ v, .immediate v ∈ b.operands ∧ s.immRange.contains v = false) →
      step s = .refused .bundleNotWellFormed) ∧
    ((∀ v, .immediate v ∈ b.operands → s.immRange.contains v = true) →
      step s = .next {
        x := (transactBundle b s.x).2
        requests := rest
        response := some (transactBundle b s.x).1
        immRange := s.immRange })

/-- R84: a word at the binary front end does what the bundle it stands for does. That the model has the
front end, and that a word of no row is refused there, is log entry 5 (PRESUMED); that a refusal ends the
run is log entry 14 (DESIGN CHOICE). -/
def Obligations.WordStepIsItsBundle : Prop :=
  ∀ (s : State) (w : Word) (rest : List Request), s.requests = .word w :: rest →
    (∀ row ∈ opcodeTable, row.hasFixedBits w = true →
      step s = step { s with
        requests := .bundle { opcode := row.mnemonic, operands := wordOperands row.format w } :: rest }) ∧
    ((∀ row ∈ opcodeTable, row.hasFixedBits w = false) → step s = .refused .wordNotInTable)

/-- R110: a transaction that ends with an error leaves the Register File unmodified, and returns no
report. -/
def Obligations.ErrorLeavesRegisterFile : Prop :=
  ∀ (s t : State) (e : ErrorKind), step s = .next t → t.response = some (.err e) →
    t.x = s.x ∧ respReport t = none

/-- R109: a successful transaction writes exactly the reported destination. -/
def Obligations.SuccessWritesOneSlot : Prop :=
  ∀ (s t : State) (report : ExecutionReport), step s = .next t → t.response = some (.ok report) →
    ∃ (rd : Fin 32) (v : Word), report.effect = some { destRegister := rd, newValue := signed v } ∧
      t.x[rd] = v ∧ ∀ j : Fin 32, j ≠ rd → t.x[j] = s.x[j]

/-- R32: the only ways to change a slot are a successful instruction and reset; the report's snapshot is
what the snapshot port shows. -/
def Obligations.OnlySuccessOrResetChangesSlots : Prop :=
  ∀ s t : State, step s = .next t →
    (t.x ≠ s.x → (∃ report, t.response = some (.ok report)) ∨ s.requests.head? = some .rst) ∧
    (∀ report, t.response = some (.ok report) → report.registerSnapshot = snapshot t)

/-- R111: the result and the file after a transaction are a function of the line and the file before
it, for a fixed `ImmRange`: no other part of the state has a say. -/
def Obligations.TransactionDependsOnLineAndFile : Prop :=
  ∀ (s s' : State) (l : Text) (rest rest' : List Request), s.requests = .line l :: rest →
    s'.requests = .line l :: rest' → s.x = s'.x → s.immRange = s'.immRange →
    ∃ t t', step s = .next t ∧ step s' = .next t' ∧ t.x = t'.x ∧ t.response = t'.response ∧
      t.requests = rest ∧ t'.requests = rest'

/-- R23: the unsupported instructions touch no slot; a computing instruction reads no slot that its operands do not name, and writes only `x[rd]`:
two states that agree on the named sources get the same value there. -/
def Obligations.ReadsOnlyNamedSlots : Prop :=
  (∀ (i : Instr) (s : State), implemented i = false → ∃ t, exec i s = .next t ∧ t.x = s.x) ∧
  ∀ (i : Instr) (s s' : State) (rd rs1 rs2 : Fin 32) (v : Int), implemented i = true →
    i.operands = slotOperands i.format rd rs1 rs2 v → s.x[rs1] = s'.x[rs1] →
    (i.format = .rType → s.x[rs2] = s'.x[rs2]) →
    ∃ t t', exec i s = .next t ∧ exec i s' = .next t' ∧ t.x[rd] = t'.x[rd] ∧
      (∀ j : Fin 32, j ≠ rd → t.x[j] = s.x[j]) ∧ (∀ j : Fin 32, j ≠ rd → t'.x[j] = s'.x[j])

/-- R48: the requests of the host's stream are served one at a time in their order, each on the file
that the one before it left. That the stream is a list in State is log entry 1 (DESIGN CHOICE), and that
words can stand in it is log entry 5 (PRESUMED). -/
def Obligations.RequestsServedInOrder : Prop :=
  ∀ s : State, Servable s →
    ∃ t, core.run s.requests.length s = .next t ∧ t.requests = [] ∧ t.immRange = s.immRange ∧
      t.x = s.requests.foldl (serve s.immRange) s.x

/-! ### Invariants -/

/-- R189: while everything the host presents has a meaning, the executor is never stuck and never
halts, and goes on so. That the requests are a list in State is log entry 1 (DESIGN CHOICE), that an
empty one idles is log entry 4 (DEDUCED), and that words can stand in it is log entry 5 (PRESUMED). -/
def Obligations.ServableStepsForever : Prop :=
  ∀ s : State, Servable s → ∃ t, step s = .next t ∧ Servable t

/-- The machine right after reset has nothing pending that could stop it; that nothing is pending at all
is log entry 1 (DESIGN CHOICE). -/
def Obligations.ResetIsServable : Prop := Servable State.reset ∧ ParameterLegal State.reset

/-- A step refuses exactly when the next request has no meaning: never on a line (R189), and on a bundle
when it is not well formed (R83). That a word of no row has no meaning is log entry 5 (PRESUMED), and that
a refusal ends the run is log entry 14 (DESIGN CHOICE). -/
def Obligations.RefusesExactlyInadmissible : Prop :=
  ∀ s : State, (∃ r, step s = .refused r) ↔ ∃ q, s.requests.head? = some q ∧ admissible s.immRange q = false

/-- R107: every step leaves a true report on the response port, or none. -/
def Obligations.StepLeavesTrueReport : Prop := ∀ s t : State, step s = .next t → ReportTrue t

/-- The state right after reset makes no untrue report, for it has no response on its port: that is the
model's choice, log entry 2 (DESIGN CHOICE). The spec says only that the executor is idle after reset
(R211) and retains no report (R31). -/
def Obligations.ResetReportTrue : Prop := ReportTrue State.reset

/-- R9: no step changes the parameter `ImmRange`, so a legal one stays legal (log entry 3). -/
def Obligations.ParameterIsFixed : Prop :=
  ∀ s t : State, step s = .next t → t.immRange = s.immRange ∧ (ParameterLegal s → ParameterLegal t)

/-! ### Encoding and decoding -/

/-- R61, R81: the canonical line of every instruction that has one decodes to it, operands and all. -/
def Obligations.LineRoundTrip : Prop :=
  ∀ (r : ImmRange) (i : Instr), i.hasLine r = true → decodeLine r (encode i) = .ok i

/-- R61: the space form of every instruction that has a line decodes to it too, so that both surface forms
decode to the same instruction. -/
def Obligations.SpaceFormRoundTrip : Prop :=
  ∀ (r : ImmRange) (i : Instr), i.hasLine r = true → decodeLine r (encodeSpaced i) = .ok i

/-- R84: the informative word of every instruction that has one decodes to it (log entry 5). -/
def Obligations.WordRoundTrip : Prop :=
  ∀ i : Instr, i.hasWord = true → ∃ w, encodeWord i = some w ∧ decodeWord w = some i

/-- R84: every word that decodes is the word of the instruction it decodes to: no bit is dropped. -/
def Obligations.DecodedWordEncodesBack : Prop :=
  ∀ (w : Word) (i : Instr), decodeWord w = some i → encodeWord i = some w

/-- R84: each row's opcode, funct3 and funct7 say the same of a word as the match and mask words the
spec gives beside them. -/
def Obligations.RowsAgreeWithMatchAndMask : Prop :=
  ∀ p ∈ [("add".toList, (0x00000033 : Word), (0xFE00707F : Word)),
         ("sub".toList, 0x40000033, 0xFE00707F), ("mul".toList, 0x02000033, 0xFE00707F),
         ("sll".toList, 0x00001033, 0xFE00707F), ("addi".toList, 0x00000013, 0x0000707F),
         ("slt".toList, 0x00002033, 0xFE00707F), ("sltu".toList, 0x00003033, 0xFE00707F),
         ("xor".toList, 0x00004033, 0xFE00707F), ("srl".toList, 0x00005033, 0xFE00707F),
         ("sra".toList, 0x40005033, 0xFE00707F), ("or".toList, 0x00006033, 0xFE00707F),
         ("and".toList, 0x00007033, 0xFE00707F)],
    ∃ row ∈ opcodeTable, row.mnemonic = p.1 ∧
      ∀ w : Word, row.hasFixedBits w = true ↔ w &&& p.2.2 = p.2.1

/-- R84: no word has the fixed bits of two rows of the table. -/
def Obligations.WordRowsAreDisjoint : Prop :=
  opcodeTable.Pairwise fun row row' => ∀ w : Word, ¬ (row.hasFixedBits w = true ∧ row'.hasFixedBits w = true)

/-- Words of 95_test_vectors.md, one for each computing instruction and one unsupported. -/
def Obligations.SampleWordsDecode : Prop :=
  decodeWord 0x00700093 = some (.addi [.register 1, .register 0, .immediate 7]) ∧
  decodeWord 0xFFF20293 = some (.addi [.register 5, .register 4, .immediate (-1)]) ∧
  decodeWord 0x00528333 = some (.add [.register 6, .register 5, .register 5]) ∧
  decodeWord 0x402081B3 = some (.sub [.register 3, .register 1, .register 2]) ∧
  decodeWord 0x021202B3 = some (.mul [.register 5, .register 4, .register 1]) ∧
  decodeWord 0x00319233 = some (.sll [.register 4, .register 3, .register 3]) ∧
  decodeWord 0x0010C0B3 = some (.xor [.register 1, .register 1, .register 1])

/-- R62: case and surrounding whitespace never matter, and the blank lines are the empty ones. -/
def Obligations.CaseAndMarginsIgnored : Prop :=
  (∀ (r : ImmRange) (l l' before after : Text), Blank before → Blank after → lower l = lower l' →
    parse r (before ++ l ++ after) = parse r l') ∧
  (∀ (r : ImmRange) (l : Text), parse r l = .error .empty ↔ Blank l)

/-- R65, R66: the tokens of a line are read whatever whitespace separates them, in both forms. -/
def Obligations.TokensReadInBothForms : Prop :=
  ∀ (r : ImmRange) (op t1 t2 t3 g0 g1 g2 h1 h2 h3 h4 : Text), Solid op → Token t1 → Token t2 → Token t3 →
    Blank g0 → Blank g1 → Blank g2 → Blank h1 → Blank h2 → Blank h3 → Blank h4 →
    g0 ≠ [] → g1 ≠ [] → g2 ≠ [] →
    parse r (op ++ g0 ++ t1 ++ g1 ++ t2 ++ g2 ++ t3) =
      (readOperands r [lower t1, lower t2, lower t3]).map (fun ops => { opcode := lower op, operands := ops }) ∧
    parse r (op ++ g0 ++ t1 ++ h1 ++ [','] ++ h2 ++ t2 ++ h3 ++ [','] ++ h4 ++ t3) =
      (readOperands r [lower t1, lower t2, lower t3]).map (fun ops => { opcode := lower op, operands := ops })

/-- R68, R70: how three operand tokens are read, whatever they are. Token 1 or 2 that is no register token
is `BadRegisterToken`, whatever token 3 is; otherwise token 3 decides, read as a register token if it
starts with `x` and as an immediate token if not. -/
def Obligations.OperandPositionsReadInOrder : Prop :=
  (∀ (r : ImmRange) (t1 t2 t3 : Text), ¬ RegisterToken t1 ∨ ¬ RegisterToken t2 →
    readOperands r [t1, t2, t3] = .error .badRegisterToken) ∧
  (∀ (r : ImmRange) (d1 d2 d3 : Text), DigitString d1 → DigitString d2 → DigitString d3 →
    readOperands r ['x' :: d1, 'x' :: d2, 'x' :: d3] =
      .ok [.register (dec d1), .register (dec d2), .register (dec d3)]) ∧
  (∀ (r : ImmRange) (d1 d2 d3 : Text), DigitString d1 → DigitString d2 → ¬ DigitString d3 →
    readOperands r ['x' :: d1, 'x' :: d2, 'x' :: d3] = .error .badRegisterToken) ∧
  (∀ (r : ImmRange) (d1 d2 t3 : Text), DigitString d1 → DigitString d2 → t3.head? ≠ some 'x' →
    (∀ o, immTok r t3 = .ok o →
      readOperands r ['x' :: d1, 'x' :: d2, t3] = .ok [.register (dec d1), .register (dec d2), o]) ∧
    (∀ e, immTok r t3 = .error e → e = .badImmediate ∧
      readOperands r ['x' :: d1, 'x' :: d2, t3] = .error .badImmediate)) ∧
  (∀ (r : ImmRange) (t : Text),
    (t.head? = some 'x' → thirdTok r t = regTok t) ∧ (t.head? ≠ some 'x' → thirdTok r t = immTok r t))

/-- R67: any count of operand tokens but three is `BadArity`, whatever the opcode token. -/
def Obligations.WrongCountIsBadArity : Prop :=
  (∀ (r : ImmRange) (l : Text) (toks : List Text), ¬ Blank l →
    operandTokens (operandText (normalise l)) = .ok toks → toks.length ≠ 3 → parse r l = .error .badArity) ∧
  (∀ (r : ImmRange) (op : Text) (toks : List Text), Solid op → (∀ t ∈ toks, Token t) → toks.length ≠ 3 →
    parse r (op ++ [' '] ++ joinTokens [' '] toks) = .error .badArity ∧
    parse r (op ++ [' '] ++ joinTokens [',', ' '] toks) = .error .badArity)

/-- R65: the operand text with a comma is split at every comma and each piece trimmed; a piece that is
then empty or holds whitespace is `BadArity`, and otherwise the pieces are the operand tokens. -/
def Obligations.CommaFormTokens : Prop :=
  ∀ pieces : List Text, 2 ≤ pieces.length → (∀ p ∈ pieces, ',' ∉ p) →
    ((∀ p ∈ pieces, Solid (trim p)) →
      operandTokens (trim (joinTokens [','] pieces)) = .ok (pieces.map trim)) ∧
    ((∃ p ∈ pieces, trim p = [] ∨ ∃ c ∈ trim p, isSpace c = true) →
      ∀ (r : ImmRange) (op : Text), Solid op →
        parse r (op ++ [' '] ++ joinTokens [','] pieces) = .error .badArity)

/-- R69: `x` and decimal digits, leading zeros allowed, of any value; every other token that should be a
register is `BadRegisterToken`. -/
def Obligations.RegisterTokenRule : Prop :=
  (∀ (n k : Nat), regTok ('x' :: (List.replicate k '0' ++ decText n)) = .ok (.register n)) ∧
  (∀ d, DigitString d → regTok ('x' :: d) = .ok (.register (dec d))) ∧
  (∀ t, (∀ d, t = 'x' :: d → ¬ DigitString d) → regTok t = .error .badRegisterToken)

/-- R71: an optional sign and decimal digits, the value in `ImmRange`; anything else is
`BadImmediate`. -/
def Obligations.ImmediateTokenRule : Prop :=
  (∀ (n k : Nat), dec (List.replicate k '0' ++ decText n) = n) ∧
  (∀ (r : ImmRange) (d : Text), DigitString d →
    immTok r d = (if r.lo ≤ dec d ∧ dec d ≤ r.hi then .ok (.immediate (dec d)) else .error .badImmediate) ∧
    immTok r ('+' :: d) = immTok r d ∧
    immTok r ('-' :: d) =
      (if r.lo ≤ -(dec d : Int) ∧ -(dec d : Int) ≤ r.hi then .ok (.immediate (-(dec d : Int)))
        else .error .badImmediate)) ∧
  (∀ (r : ImmRange) (t : Text), ¬ DigitString t → (∀ d, (t = '+' :: d ∨ t = '-' :: d) → ¬ DigitString d) →
    immTok r t = .error .badImmediate)

/-- R73: what a successful parse yields: a normalised opcode token and three operands, the first two
registers, no index negative, every immediate in the range. -/
def Obligations.ParsedRecordShape : Prop :=
  ∀ (r : ImmRange) (l : Text) (b : Instruction), parse r l = .ok b →
    lineOperands r b.operands = true ∧ b.wellFormed r = true ∧
    b.opcode = opcodeToken (normalise l) ∧ Solid b.opcode ∧ lower b.opcode = b.opcode

/-- R75: an immediate is used directly: its 32-bit value read signed is the value itself. -/
def Obligations.ImmediateIsItsOwnValue : Prop :=
  ∀ (r : ImmRange) (s : State) (v : Int), r.fits32 = true → r.contains v = true →
    signed (sourceValue s (.literal v)) = v

/-! ### The report and the formatter -/

/-- R108: the message, in which numbers are written in decimal with `-` for negatives, no `+` and no leading zeros. -/
def Obligations.MessageAndDecimalRendering : Prop :=
  (∀ (rd : Fin 32) (v : Word), reportMessage rd v =
    "Register ".toList ++ decText rd.val ++ " set to ".toList ++ decSigned (signed v)) ∧
  ∀ n : Int, signedDecimal (decSigned n) = some n ∧ (decSigned n).head? ≠ some '+' ∧
    (n ≠ 0 → (decText n.natAbs).head? ≠ some '0') ∧ (0 ≤ n → decSigned n = decText n.natAbs) ∧
    (n < 0 → decSigned n = '-' :: decText n.natAbs)

/-- R114: the formatted report is the message line and 32 register lines in ascending order, each ended
by a line feed. -/
def Obligations.FormatIsMessageAndDump : Prop :=
  (∀ r : ExecutionReport, '\n' ∉ r.message →
    splitAtEvery (fun c => c == '\n') (formatReport r) =
      r.message :: (List.finRange 32).map (fun i : Fin 32 =>
        "x".toList ++ decText i.val ++ ": ".toList ++ decSigned (signed r.registerSnapshot[i])) ++ [[]]) ∧
  (∀ (rd : Fin 32) (v : Word) (X : RegFile), '\n' ∉ (makeReport rd v X).message)

/-- R190: with several faults the first in the order of the parser, step 1, step 2, step 3 is the one
reported: the rule's own lines, then one line of R183, one of R184 and three more with several bad tokens,
from every state with the default range. -/
def Obligations.PriorityExamples : Prop :=
  ∀ s : State, s.immRange = Config.defaultImmRange →
    (∀ p ∈ [("xor x99, x2, 5".toList, ErrorKind.exec .unsupportedOpcode),
            ("add x99, x2, 5".toList, .exec .operandKindMismatch),
            ("foo x1 x2".toList, .parse .badArity),
            ("foo 1, x2, x3".toList, .parse .badRegisterToken),
            ("add x1, x2, xz".toList, .parse .badRegisterToken),
            ("add x1, x2, abc".toList, .parse .badImmediate),
            ("add 1, x2, abc".toList, .parse .badRegisterToken),
            ("add x1, sp, 0x10".toList, .parse .badRegisterToken),
            ("foo x99, x2, abc".toList, .parse .badImmediate)],
      step { s with requests := [.line p.1] } =
        .next { s with requests := [], response := some (.err p.2) })
end

