-- ==== Sys2Proof/Laws/Arith.lean ====
section
/-! SUPPORT. The integer readings of a word and `bv32` cancel, `bv32` is a ring map, and so each
operation computed exactly is the one on 32-bit vectors (00_scope.md R10, 40_execution.md R113). -/

namespace Sys2Proof

@[simp] theorem bv32_unsigned (a : Word) : bv32 (unsigned a) = a := by simp [bv32, unsigned]
@[simp] theorem bv32_signed (a : Word) : bv32 (signed a) = a := by simp [bv32, signed]
theorem bv32_add (m n : Int) : bv32 (m + n) = bv32 m + bv32 n := BitVec.ofInt_add ..
theorem bv32_mul (m n : Int) : bv32 (m * n) = bv32 m * bv32 n := BitVec.ofInt_mul ..
theorem bv32_sub (m n : Int) : bv32 (m - n) = bv32 m - bv32 n := by
  rw [Int.sub_eq_add_neg, bv32_add, BitVec.sub_eq_add_neg, bv32, bv32, bv32, BitVec.ofInt_neg]

namespace Machine

theorem sumOp_eq (a b : Word) : sumOp a b = a + b := by rw [sumOp, bv32_add, bv32_unsigned, bv32_unsigned]
theorem sumImmOp_eq (a b : Word) : sumImmOp a b = a + b := by
  rw [sumImmOp, bv32_add, bv32_unsigned, bv32_unsigned]
theorem differenceOp_eq (a b : Word) : differenceOp a b = a - b := by
  rw [differenceOp, bv32_sub, bv32_unsigned, bv32_unsigned]
theorem productOp_eq (a b : Word) : productOp a b = a * b := by
  rw [productOp, bv32_mul, bv32_unsigned, bv32_unsigned]
theorem shiftLeftOp_eq (a b : Word) : shiftLeftOp a b = a <<< shiftAmount b := by
  apply BitVec.eq_of_toNat_eq
  simp [shiftLeftOp, bv32, unsigned, Nat.shiftLeft_eq]
  norm_cast

end Machine

end Sys2Proof
end

