-- ==== Sys2Proof/Laws/Decode.lean ====
section
/-! SUPPORT. Small lemmas of the text helpers, so that proofs about the parser need not unfold them. -/

namespace Sys2Proof

@[simp] theorem lower_nil : lower [] = [] := rfl
@[simp] theorem lower_cons (c : Char) (s : Text) : lower (c :: s) = lowerChar c :: lower s := rfl
@[simp] theorem lower_append (s t : Text) : lower (s ++ t) = lower s ++ lower t := by simp [lower]

theorem toNat_val_add (c : Char) (h : c.val.toNat ≤ 90) : (c.val + 32).toNat = c.val.toNat + 32 := by
  rw [UInt32.toNat_add]
  show (c.val.toNat + 32) % 2 ^ 32 = _
  omega

/-- Lower-casing changes the number of a character only between `A` and `Z`, and then by 32. -/
theorem toNat_lowerChar (c : Char) :
    (lowerChar c).toNat = if 65 ≤ c.toNat ∧ c.toNat ≤ 90 then c.toNat + 32 else c.toNat := by
  unfold lowerChar Char.toLower
  split
  · next h =>
    have h1 : 65 ≤ c.toNat := h.1
    have h2 : c.toNat ≤ 90 := h.2
    rw [if_pos ⟨h1, h2⟩]
    exact toNat_val_add c h2
  · next h =>
    have h' : ¬ (65 ≤ c.toNat ∧ c.toNat ≤ 90) := h
    rw [if_neg h']

theorem isSpace_lowerChar (c : Char) : isSpace (lowerChar c) = isSpace c := by
  unfold isSpace
  rw [toNat_lowerChar]
  split
  · next h =>
    rw [Bool.eq_iff_iff]
    simp only [Bool.or_eq_true, Bool.and_eq_true, beq_iff_eq, decide_eq_true_eq]
    omega
  · rfl

/-- Lower-casing twice is lower-casing once. -/
theorem lowerChar_lowerChar (c : Char) : lowerChar (lowerChar c) = lowerChar c := by
  apply Char.toNat_inj.mp
  rw [toNat_lowerChar (lowerChar c), toNat_lowerChar c]
  split
  · rw [if_neg (by omega)]
  · rfl

@[simp] theorem lower_lower (s : Text) : lower (lower s) = lower s := by
  induction s with
  | nil => rfl
  | cons c cs ih => simp [lowerChar_lowerChar, ih]

theorem dropWhile_lower (s : Text) : (lower s).dropWhile isSpace = lower (s.dropWhile isSpace) := by
  induction s with
  | nil => rfl
  | cons c cs ih =>
    by_cases h : isSpace c = true
    · simp [isSpace_lowerChar, h, ih]
    · simp [isSpace_lowerChar, h]

/-- Trimming and lower-casing commute (R62). -/
theorem trim_lower (s : Text) : trim (lower s) = lower (trim s) := by
  have hr : ∀ t : Text, (lower t).reverse = lower t.reverse := fun t => by simp [lower]
  simp only [trim, dropWhile_lower, hr]

theorem dropWhile_blank_append (b s : Text) (h : ∀ c ∈ b, isSpace c = true) :
    (b ++ s).dropWhile isSpace = s.dropWhile isSpace := by
  induction b with
  | nil => rfl
  | cons c cs ih => simp [h c (by simp), ih fun d hd => h d (by simp [hd])]

/-- Whitespace before and after a text makes no difference to its trimming (R12, R62). -/
theorem trim_blank_append (b s e : Text) (hb : ∀ c ∈ b, isSpace c = true) (he : ∀ c ∈ e, isSpace c = true) :
    trim (b ++ s ++ e) = trim s := by
  have key : ∀ t : Text, ((t ++ e).dropWhile isSpace).reverse.dropWhile isSpace =
      (t.dropWhile isSpace).reverse.dropWhile isSpace := by
    intro t
    induction t with
    | nil =>
      have : e.dropWhile isSpace = [] := by simpa using dropWhile_blank_append e [] he
      simp [this]
    | cons c cs ih =>
      by_cases hc : isSpace c = true
      · simpa [hc] using ih
      · have := dropWhile_blank_append e.reverse (c :: cs).reverse fun d hd => he d (by simpa using hd)
        simpa [hc] using this
  simp only [trim, List.append_assoc, dropWhile_blank_append b _ hb, key]

@[simp] theorem trim_nil : trim [] = [] := rfl

/-- A text with no whitespace character at either end is its own trimming. -/
theorem trim_eq_self (c : Char) (s : Text) (hc : isSpace c = false)
    (hl : ∀ d, (c :: s).getLast? = some d → isSpace d = false) : trim (c :: s) = c :: s := by
  have h1 : (c :: s).dropWhile isSpace = c :: s := by simp [hc]
  unfold trim
  rw [h1]
  cases hr : (c :: s).reverse with
  | nil => simp at hr
  | cons d r =>
    have hd : isSpace d = false := hl d (by rw [List.getLast?_eq_head?_reverse, hr]; rfl)
    have : (d :: r).dropWhile isSpace = d :: r := by simp [hd]
    rw [this, ← hr, List.reverse_reverse]

theorem splitAtEvery_ne_nil (p : Char → Bool) (s : Text) : splitAtEvery p s ≠ [] := by
  induction s with
  | nil => simp [splitAtEvery]
  | cons c cs ih =>
    unfold splitAtEvery
    split
    · simp
    · cases h : splitAtEvery p cs <;> simp

/-- A text with no separator is one piece. -/
theorem splitAtEvery_of_none (p : Char → Bool) (s : Text) (h : ∀ c ∈ s, p c = false) :
    splitAtEvery p s = [s] := by
  induction s with
  | nil => rfl
  | cons c cs ih =>
    have hc : p c = false := h c (by simp)
    have := ih fun d hd => h d (by simp [hd])
    simp [splitAtEvery, hc, this]

/-- A text with no separator, then a separator, then a rest: the first piece, then the pieces of the
rest. -/
theorem splitAtEvery_append (p : Char → Bool) (s : Text) (c : Char) (rest : Text)
    (h : ∀ d ∈ s, p d = false) (hc : p c = true) :
    splitAtEvery p (s ++ c :: rest) = s :: splitAtEvery p rest := by
  induction s with
  | nil => simp [splitAtEvery, hc]
  | cons d ds ih =>
    have hd : p d = false := h d (by simp)
    have := ih fun e he => h e (by simp [he])
    simp [splitAtEvery, hd, this]

/-- A mnemonic of no row is unknown (R77). -/
theorem resolve_unknown {b : Instruction} (h : ∀ row ∈ opcodeTable, row.mnemonic ≠ b.opcode) :
    resolve b = .error .unknownOpcode := by
  have : opcodeTable.find? (fun row => row.mnemonic == b.opcode) = none := by
    simpa [List.find?_eq_none] using h
  simp [resolve, this]

/-- Decimal text denotes the number it writes (R12, R108). -/
theorem dec_decText (n : Nat) : dec (decText n) = n := Nat.ofDigitChars_toDigits (by decide) (by decide)

/-- Decimal text holds digits only. -/
theorem isDigit_of_mem_decText {n : Nat} {c : Char} (h : c ∈ decText n) : isDigit c = true :=
  Nat.isDigit_of_mem_toDigits (by decide) (by decide) h

end Sys2Proof
end

