-- ==== Sys2Proof/Laws/State.lean ====
section
/-! SUPPORT. One lemma per field per update of the state, so that no proof unfolds a record update;
and the read-after-write laws of the Register File. -/

namespace Sys2Proof.Machine

@[simp] theorem writeSlot_x (s : State) (i : Fin 32) (v : Word) : (writeSlot s i v).x = s.x.set i.val v i.isLt := rfl
@[simp] theorem writeSlot_requests (s : State) (i : Fin 32) (v : Word) : (writeSlot s i v).requests = s.requests := rfl
@[simp] theorem writeSlot_response (s : State) (i : Fin 32) (v : Word) : (writeSlot s i v).response = s.response := rfl
@[simp] theorem writeSlot_immRange (s : State) (i : Fin 32) (v : Word) : (writeSlot s i v).immRange = s.immRange := rfl

@[simp] theorem raise_x (s : State) (e : ErrorKind) : (raise s e).x = s.x := rfl
@[simp] theorem raise_requests (s : State) (e : ErrorKind) : (raise s e).requests = s.requests := rfl
@[simp] theorem raise_response (s : State) (e : ErrorKind) : (raise s e).response = some (.err e) := rfl
@[simp] theorem raise_immRange (s : State) (e : ErrorKind) : (raise s e).immRange = s.immRange := rfl

@[simp] theorem complete_x (s : State) (rd : Fin 32) (v : Word) : (complete s rd v).x = s.x.set rd.val v rd.isLt := rfl
@[simp] theorem complete_requests (s : State) (rd : Fin 32) (v : Word) : (complete s rd v).requests = s.requests := rfl
@[simp] theorem complete_response (s : State) (rd : Fin 32) (v : Word) : (complete s rd v).response = some (.ok (makeReport rd v (s.x.set rd.val v rd.isLt))) := rfl
@[simp] theorem complete_immRange (s : State) (rd : Fin 32) (v : Word) : (complete s rd v).immRange = s.immRange := rfl

@[simp] theorem pulseReset_x (s : State) : (pulseReset s).x = Vector.replicate 32 0 := rfl
@[simp] theorem pulseReset_requests (s : State) : (pulseReset s).requests = s.requests := rfl
@[simp] theorem pulseReset_response (s : State) : (pulseReset s).response = none := rfl
@[simp] theorem pulseReset_immRange (s : State) : (pulseReset s).immRange = s.immRange := rfl

@[simp] theorem idle_x (s : State) : (idle s).x = s.x := rfl
@[simp] theorem idle_requests (s : State) : (idle s).requests = s.requests := rfl
@[simp] theorem idle_response (s : State) : (idle s).response = none := rfl
@[simp] theorem idle_immRange (s : State) : (idle s).immRange = s.immRange := rfl

@[simp] theorem takeRequest_x (s : State) : (takeRequest s).x = s.x := rfl
@[simp] theorem takeRequest_requests (s : State) : (takeRequest s).requests = s.requests.tail := rfl
@[simp] theorem takeRequest_response (s : State) : (takeRequest s).response = s.response := rfl
@[simp] theorem takeRequest_immRange (s : State) : (takeRequest s).immRange = s.immRange := rfl

@[simp] theorem withFetchWord_x (s : State) (nbits w : Nat) : (s.withFetchWord nbits w).x = s.x := rfl
@[simp] theorem withFetchWord_requests (s : State) (nbits w : Nat) : (s.withFetchWord nbits w).requests = .word (tableWord nbits w) :: s.requests := rfl
@[simp] theorem withFetchWord_response (s : State) (nbits w : Nat) : (s.withFetchWord nbits w).response = s.response := rfl
@[simp] theorem withFetchWord_immRange (s : State) (nbits w : Nat) : (s.withFetchWord nbits w).immRange = s.immRange := rfl

@[simp] theorem readSlot_eq (s : State) (i : Fin 32) : readSlot s i = s.x[i] := rfl

/-- A slot written is the slot read, whichever slot it is (R22). -/
theorem readSlot_writeSlot_self (s : State) (i : Fin 32) (v : Word) : readSlot (writeSlot s i v) i = v := by
  simp

/-- A write leaves every other slot alone (R109). -/
theorem readSlot_writeSlot_ne (s : State) {i j : Fin 32} (v : Word) (h : j ≠ i) :
    readSlot (writeSlot s i v) j = readSlot s j := by
  have hv : i.val ≠ j.val := fun e => h (Fin.ext e.symm)
  simp [hv]

/-- `complete` writes the slot it names. -/
theorem complete_x_self (s : State) (rd : Fin 32) (v : Word) : (complete s rd v).x[rd] = v := by
  simp

/-- `complete` writes no other slot. -/
theorem complete_x_ne (s : State) {rd j : Fin 32} (v : Word) (h : j ≠ rd) :
    (complete s rd v).x[j] = s.x[j] := by
  have hv : rd.val ≠ j.val := fun e => h (Fin.ext e.symm)
  simp [hv]

@[simp] theorem reset_x (i : Fin 32) : State.reset.x[i] = 0 := by
  simp [State.reset]

@[simp] theorem reset_requests : State.reset.requests = [] := rfl
@[simp] theorem reset_response : State.reset.response = none := rfl
@[simp] theorem reset_immRange : State.reset.immRange = Config.defaultImmRange := rfl

end Sys2Proof.Machine
end

