-- ==== Sys2Proof/Laws/Operands.lean ====
section
/-! SUPPORT. What steps 2 to 7 of the engine can do, said once: `slotOf`, `validate`, `compute`. -/

namespace Sys2Proof.Machine

@[simp] theorem slotOf_fin (i : Fin 32) : slotOf (i.val : Int) = .ok i := by
  have h : (0 : Int) ≤ (i.val : Int) ∧ (i.val : Int) ≤ 31 := by omega
  simp [slotOf, h]

/-- `slotOf` answers the slot of that number, or the error that carries the index (R103). -/
theorem slotOf_ok_iff (i : Int) (k : Fin 32) : slotOf i = .ok k ↔ i = (k.val : Int) := by
  constructor
  · intro h
    unfold slotOf at h
    split at h
    · injection h with h
      subst h
      simp; omega
    · cases h
  · rintro rfl
    exact slotOf_fin k

theorem slotOf_out (i : Int) (h : i < 0 ∨ 31 < i) : slotOf i = .error (.registerOutOfRange i) := by
  have h' : ¬ (0 ≤ i ∧ i ≤ 31) := by omega
  simp [slotOf, h']

/-- An R-type operand list of three slots passes steps 2 and 3. -/
@[simp] theorem validate_rType (rd rs1 rs2 : Fin 32) :
    validate .rType [.register rd.val, .register rs1.val, .register rs2.val] =
      .ok { rd := rd, rs1 := rs1, src2 := .slot rs2 } := by
  simp [validate, pure, Except.pure, bind, Except.bind]

/-- An I-type operand list of two slots and an immediate passes steps 2 and 3. -/
@[simp] theorem validate_iType (rd rs1 : Fin 32) (v : Int) :
    validate .iType [.register rd.val, .register rs1.val, .immediate v] =
      .ok { rd := rd, rs1 := rs1, src2 := .literal v } := by
  simp [validate, pure, Except.pure, bind, Except.bind]

/-- An operand list with the kinds of R-type is three registers. -/
theorem kinds_rType {ops : List Operand} (h : ops.map Operand.kind = Format.rType.kinds) :
    ∃ a b c, ops = [.register a, .register b, .register c] := by
  match ops with
  | [.register a, .register b, .register c] => exact ⟨_, _, _, rfl⟩
  | [] | [_] | [_, _] | _ :: _ :: _ :: _ :: _ => simp [Format.kinds] at h
  | [.immediate _, _, _] | [.register _, .immediate _, _] | [.register _, .register _, .immediate _] =>
    simp [Format.kinds, Operand.kind] at h

/-- An operand list with the kinds of I-type is two registers and an immediate. -/
theorem kinds_iType {ops : List Operand} (h : ops.map Operand.kind = Format.iType.kinds) :
    ∃ a b v, ops = [.register a, .register b, .immediate v] := by
  match ops with
  | [.register a, .register b, .immediate v] => exact ⟨_, _, _, rfl⟩
  | [] | [_] | [_, _] | _ :: _ :: _ :: _ :: _ => simp [Format.kinds] at h
  | [.immediate _, _, _] | [.register _, .immediate _, _] | [.register _, .register _, .register _] =>
    simp [Format.kinds, Operand.kind] at h

/-- Step 2 rejects every operand list whose count or kinds are not the format's (R102). -/
theorem validate_of_kinds_ne {f : Format} {ops : List Operand} (h : ops.map Operand.kind ≠ f.kinds) :
    validate f ops = .error .operandKindMismatch := by
  unfold validate
  split
  · simp [Operand.kind, Format.kinds] at h
  · simp [Operand.kind, Format.kinds] at h
  · rfl

open Safety in
/-- A register index is a slot's number, or the index that step 3 reports (R103). -/
theorem slotOf_cases (i : Int) :
    (badIndex (.register i) = none ∧ ∃ k : Fin 32, i = k.val ∧ slotOf i = .ok k) ∨
    (badIndex (.register i) = some i ∧ slotOf i = .error (.registerOutOfRange i)) := by
  by_cases h : 0 ≤ i ∧ i ≤ 31
  · exact .inl ⟨by simp [badIndex]; omega, ⟨i.toNat, by omega⟩, by simp; omega, by simp [slotOf, h]⟩
  · exact .inr ⟨by simp [badIndex]; omega, slotOf_out i (by omega)⟩

open Safety in
/-- Step 3 reports the first index outside `[0,31]` in operand order (R103). -/
theorem validate_of_badIndex {f : Format} {ops : List Operand} {i : Int}
    (h : ops.map Operand.kind = f.kinds) (hb : ops.findSome? badIndex = some i) :
    validate f ops = .error (.registerOutOfRange i) := by
  cases f with
  | rType =>
    obtain ⟨a, b, c, rfl⟩ := kinds_rType h
    rcases slotOf_cases a with ⟨ha, _, rfl, ha'⟩ | ⟨ha, ha'⟩ <;>
    rcases slotOf_cases b with ⟨hb', _, rfl, hb''⟩ | ⟨hb', hb''⟩ <;>
    rcases slotOf_cases c with ⟨hc, _, rfl, hc'⟩ | ⟨hc, hc'⟩ <;>
    simp_all [validate, bind, Except.bind, List.findSome?]
  | iType =>
    obtain ⟨a, b, v, rfl⟩ := kinds_iType h
    have hv : badIndex (.immediate v) = none := rfl
    rcases slotOf_cases a with ⟨ha, _, rfl, ha'⟩ | ⟨ha, ha'⟩ <;>
    rcases slotOf_cases b with ⟨hb', _, rfl, hb''⟩ | ⟨hb', hb''⟩ <;>
    simp_all [validate, bind, Except.bind, List.findSome?]

/-- A list that passes steps 2 and 3 names three slots, or two slots and a literal. -/
theorem validate_of_no_badIndex {f : Format} {ops : List Operand}
    (h : ops.map Operand.kind = f.kinds) (hb : ops.findSome? Safety.badIndex = none) :
    ∃ rd rs1 rs2 v, ops = Safety.slotOperands f rd rs1 rs2 v := by
  cases f with
  | rType =>
    obtain ⟨a, b, c, rfl⟩ := kinds_rType h
    rcases slotOf_cases a with ⟨ha, ka, rfl, ha'⟩ | ⟨ha, ha'⟩ <;>
    rcases slotOf_cases b with ⟨hb', kb, rfl, hb''⟩ | ⟨hb', hb''⟩ <;>
    rcases slotOf_cases c with ⟨hc, kc, rfl, hc'⟩ | ⟨hc, hc'⟩ <;>
    simp_all [List.findSome?]
    exact ⟨ka, kb, kc, 0, rfl⟩
  | iType =>
    obtain ⟨a, b, v, rfl⟩ := kinds_iType h
    rcases slotOf_cases a with ⟨ha, ka, rfl, ha'⟩ | ⟨ha, ha'⟩ <;>
    rcases slotOf_cases b with ⟨hb', kb, rfl, hb''⟩ | ⟨hb', hb''⟩ <;>
    simp_all [List.findSome?]
    exact ⟨ka, kb, 0, v, rfl⟩

/-- What a computing instruction can do: raise an error of step 2 or 3, or complete with a value. -/
theorem compute_cases (f : Format) (op : Word → Word → Word) (ops : List Operand) (s : State) :
    (∃ e, validate f ops = .error e ∧ compute f op ops s = .next (raise s (.exec e))) ∨
    (∃ v, validate f ops = .ok v ∧
      compute f op ops s = .next (complete s v.rd (op (readSlot s v.rs1) (sourceValue s v.src2)))) := by
  unfold compute
  split
  · next e h => exact .inl ⟨e, h, rfl⟩
  · next v h => exact .inr ⟨v, h, rfl⟩

end Sys2Proof.Machine
end

