-- ==== Sys2Proof/Laws/PerInstr.lean ====
section
/-! SUPPORT. One lemma per constructor: the Opcode Table's row of an instruction leads back to it, by
its mnemonic, with its format (30_encoding.md R74, R76). -/

namespace Sys2Proof.Laws.Lookup

/-- The lookup of an instruction's own mnemonic gives the instruction, and its row has its format. -/
def Statement (i : Instr) : Prop :=
  resolve { opcode := i.row.mnemonic, operands := i.operands } = .ok i ∧ i.row.format = i.format

theorem add (operands : List Operand) : Statement (.add operands) := ⟨rfl, rfl⟩
theorem sub (operands : List Operand) : Statement (.sub operands) := ⟨rfl, rfl⟩
theorem mul (operands : List Operand) : Statement (.mul operands) := ⟨rfl, rfl⟩
theorem sll (operands : List Operand) : Statement (.sll operands) := ⟨rfl, rfl⟩
theorem addi (operands : List Operand) : Statement (.addi operands) := ⟨rfl, rfl⟩
theorem slt (operands : List Operand) : Statement (.slt operands) := ⟨rfl, rfl⟩
theorem sltu (operands : List Operand) : Statement (.sltu operands) := ⟨rfl, rfl⟩
theorem xor (operands : List Operand) : Statement (.xor operands) := ⟨rfl, rfl⟩
theorem srl (operands : List Operand) : Statement (.srl operands) := ⟨rfl, rfl⟩
theorem sra (operands : List Operand) : Statement (.sra operands) := ⟨rfl, rfl⟩
theorem or (operands : List Operand) : Statement (.or operands) := ⟨rfl, rfl⟩
theorem and (operands : List Operand) : Statement (.and operands) := ⟨rfl, rfl⟩

end Sys2Proof.Laws.Lookup
end

