-- ==== Sys2Proof/Laws/Step.lean ====
section
/-! SUPPORT. What an instruction and a step can do, said once, for the proofs to cite instead of
unfolding `exec` and `step`. -/

namespace Sys2Proof.Machine

/-- Every instruction answers a next state: an error raised, or one slot written with its report. -/
theorem exec_cases (i : Instr) (s : State) :
    (∃ e, exec i s = .next (raise s (.exec e))) ∨ (∃ rd v, exec i s = .next (complete s rd v)) := by
  have hc : ∀ f op ops, (∃ e, compute f op ops s = .next (raise s (.exec e))) ∨
      (∃ rd v, compute f op ops s = .next (complete s rd v)) := by
    intro f op ops
    rcases compute_cases f op ops s with ⟨e, -, h⟩ | ⟨v, -, h⟩
    · exact .inl ⟨e, h⟩
    · exact .inr ⟨_, _, h⟩
  cases i with
  | add ops => exact hc ..
  | sub ops => exact hc ..
  | mul ops => exact hc ..
  | sll ops => exact hc ..
  | addi ops => exact hc ..
  | slt _ => exact .inl ⟨_, rfl⟩
  | sltu _ => exact .inl ⟨_, rfl⟩
  | xor _ => exact .inl ⟨_, rfl⟩
  | srl _ => exact .inl ⟨_, rfl⟩
  | sra _ => exact .inl ⟨_, rfl⟩
  | or _ => exact .inl ⟨_, rfl⟩
  | and _ => exact .inl ⟨_, rfl⟩

theorem step_idle (s : State) (h : fetch s = .idle) : step s = .next (idle s) := by simp [step, h]
theorem step_rst (s : State) (h : fetch s = .rst) : step s = .next (pulseReset (takeRequest s)) := by
  simp [step, h]
theorem step_run (s : State) (i : Instr) (h : fetch s = .run i) : step s = exec i (takeRequest s) := by
  simp [step, h]
theorem step_reject (s : State) (e : ErrorKind) (h : fetch s = .reject e) :
    step s = .next (raise (takeRequest s) e) := by simp [step, h]
theorem step_refuse (s : State) (r : Refusal) (h : fetch s = .refuse r) : step s = .refused r := by
  simp [step, h]

/-- Everything a step can do: it refuses what `fetch` refuses, and otherwise goes on to a next state
by idling, resetting, raising an error or completing an instruction. -/
theorem step_cases (s : State) :
    (fetch s = .idle ∧ step s = .next (idle s)) ∨
    (fetch s = .rst ∧ step s = .next (pulseReset (takeRequest s))) ∨
    (∃ e, step s = .next (raise (takeRequest s) e) ∧
      (fetch s = .reject e ∨ ∃ i, fetch s = .run i)) ∨
    (∃ i rd v, fetch s = .run i ∧ step s = .next (complete (takeRequest s) rd v)) ∨
    (∃ r, fetch s = .refuse r ∧ step s = .refused r) := by
  cases h : fetch s with
  | idle => exact .inl ⟨rfl, step_idle s h⟩
  | rst => exact .inr (.inl ⟨rfl, step_rst s h⟩)
  | reject e => exact .inr (.inr (.inl ⟨e, step_reject s e h, .inl rfl⟩))
  | refuse r => exact .inr (.inr (.inr (.inr ⟨r, rfl, step_refuse s r h⟩)))
  | run i =>
    rcases exec_cases i (takeRequest s) with ⟨e, he⟩ | ⟨rd, v, hv⟩
    · exact .inr (.inr (.inl ⟨.exec e, (step_run s i h).trans he, .inr ⟨i, rfl⟩⟩))
    · exact .inr (.inr (.inr (.inl ⟨i, rd, v, rfl, (step_run s i h).trans hv⟩)))

end Sys2Proof.Machine
end

