-- ==== Sys2Proof/Laws/Tokens.lean ====
section
/-! SUPPORT. The parser's digit test is membership in the ten ASCII digits, so that proofs about tokens
need not unfold it. -/

namespace Sys2Proof

open Safety

/-- A digit character is one of the ten of R12. -/
theorem isDigit_iff (c : Char) : isDigit c = true ↔ c ∈ "0123456789".toList := by
  simp [isDigit, Char.isDigit, ← Char.toNat_inj, UInt32.le_iff_toNat_le]
  omega

/-- `isDigits` is the digit string of R12. -/
theorem isDigits_iff (d : Text) : isDigits d = true ↔ DigitString d := by
  simp only [isDigits, DigitString, Bool.and_eq_true, List.all_eq_true, isDigit_iff]
  simp

end Sys2Proof
end

