-- ==== Sys2Proof/Tests/Slice0.lean ====
section
/-! SUPPORT. Small tests: expected values from spec/95_test_vectors.md (its vector's id is in each
comment), ill-formed terms that each check refuses, and a witness for every hypothesis of a statement. -/

namespace Sys2Proof.Tests

open Sys2Proof.Machine Sys2Proof.Safety

/-- A state right after reset but for two slots and the requests. -/
def stateOf (i : Fin 32) (a : Word) (j : Fin 32) (b : Word) (requests : List Request) : State :=
  { State.reset with x := (State.reset.x.set i.val a i.isLt).set j.val b j.isLt, requests := requests }

/-- One line on a state of two slots. -/
def lineStep (i : Fin 32) (a : Word) (j : Fin 32) (b : Word) (l : String) : Host.Outcome State Fault Refusal :=
  step (stateOf i a j b [.line l.toList])

/-- The slot after the step, if there is a next state. -/
def slotAfter (o : Host.Outcome State Fault Refusal) (i : Fin 32) : Option Word :=
  match o with
  | .next t => some t.x[i]
  | .fault _ => none
  | .refused _ => none

/-- The error code on the port after the step. -/
def codeAfter (o : Host.Outcome State Fault Refusal) : Option (BitVec 4) :=
  match o with
  | .next t => respErrCode t
  | .fault _ => none
  | .refused _ => none

/-- The index on the port after the step. -/
def indexAfter (o : Host.Outcome State Fault Refusal) : Option Int :=
  match o with
  | .next t => respErrIndex t
  | .fault _ => none
  | .refused _ => none

/-- The message of the report after the step. -/
def messageAfter (o : Host.Outcome State Fault Refusal) : Option Text :=
  match o with
  | .next t => (respReport t).map ExecutionReport.message
  | .fault _ => none
  | .refused _ => none

/-- The refusal of the step. -/
def refusalOf (o : Host.Outcome State Fault Refusal) : Option Refusal :=
  match o with
  | .next _ => none
  | .fault r => nomatch r
  | .refused r => some r

/-! ### The instructions -/

/-- A2 -/
theorem test_add_wraps : slotAfter (lineStep 2 0x7FFFFFFF 3 1 "add x1, x2, x3") 1 = some 0x80000000 := by decide
/-- A7: the destination is `x0` -/
theorem test_add_writes_x0 : slotAfter (lineStep 2 4 3 5 "add x0, x2, x3") 0 = some 9 := by decide
/-- S2 -/
theorem test_sub_order : slotAfter (lineStep 2 5 3 7 "sub x1, x2, x3") 1 = some 0xFFFFFFFE := by decide
/-- S9: the destination is the second source -/
theorem test_sub_source_is_destination : slotAfter (lineStep 2 10 3 3 "sub x3, x2, x3") 3 = some 7 := by decide
/-- M9 -/
theorem test_mul_low_half :
    slotAfter (lineStep 2 305419896 3 162254319 "mul x1, x2, x3") 1 = some 0xE242D208 := by decide
/-- M4: the message shows a negative product -/
theorem test_mul_message :
    messageAfter (lineStep 2 3 3 (-5) "mul x1, x2, x3") = some "Register 1 set to -15".toList := by decide
/-- L6 -/
theorem test_sll_33 : slotAfter (lineStep 2 3 3 33 "sll x1, x2, x3") 1 = some 6 := by decide
/-- L7 -/
theorem test_sll_negative_amount : slotAfter (lineStep 2 1 3 (-1) "sll x1, x2, x3") 1 = some 0x80000000 := by decide
/-- I4 -/
theorem test_addi_most_negative :
    slotAfter (lineStep 2 (-1) 3 0 "addi x1, x2, -2147483648") 1 = some 0x7FFFFFFF := by decide
/-- I9 -/
theorem test_addi_plus_and_zeros : slotAfter (lineStep 2 1 3 0 "addi x1, x2, +007") 1 = some 8 := by decide
/-- U1 -/
theorem test_slt_unsupported : codeAfter (lineStep 2 1 3 2 "slt x1, x2, x3") = some 6 := by decide
/-- U2 -/
theorem test_sltu_unsupported : codeAfter (lineStep 2 1 3 2 "SLTU x1, x2, x3") = some 6 := by decide
/-- U9 -/
theorem test_xor_before_range : codeAfter (lineStep 2 1 3 2 "xor x99, x2, x3") = some 6 := by decide
/-- U4 -/
theorem test_srl_unsupported : codeAfter (lineStep 2 1 3 2 "srl x1, x2, x3") = some 6 := by decide
/-- U5 -/
theorem test_sra_space_form : codeAfter (lineStep 2 1 3 2 "sra x1 x2 x3") = some 6 := by decide
/-- U11 -/
theorem test_or_parse_error_first : codeAfter (lineStep 2 1 3 2 "or 1, x2, x3") = some 3 := by decide
/-- U7: and the slots stay -/
theorem test_and_changes_nothing : slotAfter (lineStep 1 8 3 2 "and x1, x2, x3") 1 = some 8 := by decide

/-! ### The parser, the errors and the formatter -/

/-- E2 -/
theorem test_blank_line : codeAfter (lineStep 2 1 3 2 "   ") = some 1 := by decide
/-- E9 -/
theorem test_trailing_comma : codeAfter (lineStep 2 1 3 2 "add x1, x2, x3,") = some 2 := by decide
/-- E19 -/
theorem test_comment_is_arity : codeAfter (lineStep 2 1 3 2 "addi x1, x0, 1 # one") = some 2 := by decide
/-- E20 -/
theorem test_comment_is_immediate : codeAfter (lineStep 2 1 3 2 "addi x1, x0, 1#one") = some 4 := by decide
/-- I12: just outside the default range -/
theorem test_immediate_too_large : codeAfter (lineStep 2 1 3 2 "addi x1, x2, 2147483648") = some 4 := by decide
/-- E28 -/
theorem test_csrrw_unknown : codeAfter (lineStep 2 1 3 2 "csrrw x1, x2, x3") = some 5 := by decide
/-- I14 -/
theorem test_addi_kind : codeAfter (lineStep 2 1 3 2 "addi x1, x2, x3") = some 7 := by decide
/-- E26 -/
theorem test_first_bad_index : indexAfter (lineStep 2 1 3 2 "add x1, x40, x33") = some 40 := by decide
/-- E33: tabs around commas -/
theorem test_tabs : slotAfter (lineStep 2 1 3 2 "add\tx1,\tx2,\tx3") 1 = some 3 := by decide
/-- E31 and E32 together: capitals, leading zeros -/
theorem test_case_and_zeros : slotAfter (lineStep 2 1 3 2 "ADD X01, X002, X3") 1 = some 3 := by decide
/-- 95 section 2.5: the narrow range refuses 2048 -/
theorem test_narrow_range :
    parse Config.narrowImmRange "addi x1, x2, 2048".toList = .error .badImmediate := by decide
/-- R69: a non-ASCII digit -/
theorem test_non_ascii_digit : regTok ['x', Char.ofNat 0x663] = .error .badRegisterToken := by decide
/-- F2, its second line -/
theorem test_dump_line :
    dumpLine (stateOf 1 (-1) 3 1 []).x 1 = "x1: -1\n".toList := by decide

/-! ### Bundles, words, reset -/

/-- B2 -/
theorem test_bundle_count :
    codeAfter (step (stateOf 2 1 3 2 [.bundle ⟨"add".toList, [.register 1, .register 2]⟩])) = some 7 := by decide
/-- B5 -/
theorem test_bundle_negative_index :
    indexAfter (step (stateOf 2 1 3 2 [.bundle ⟨"add".toList, [.register (-1), .register 2, .register 3]⟩])) =
      some (-1) := by decide
/-- B8 -/
theorem test_bundle_refused :
    refusalOf (step (stateOf 2 1 3 2
      [.bundle ⟨"addi".toList, [.register 1, .register 0, .immediate 2147483648]⟩])) =
      some .bundleNotWellFormed := by decide
/-- P1 line 3 as a word, fetched first after reset -/
theorem test_word_runs : slotAfter (step ((stateOf 1 7 2 5 []).withFetchWord 32 0x402081B3)) 3 = some 2 := by decide
/-- R84: no row has these bits -/
theorem test_word_refused :
    refusalOf (step (State.reset.withFetchWord 32 0xFFFFFFFF)) = some .wordNotInTable := by decide
/-- R210 -/
theorem test_rst : slotAfter (step (stateOf 2 1 3 2 [.rst])) 2 = some 0 := by decide

/-! ### Words written out from R84, one for each family: funct7 rs2 rs1 funct3 rd opcode -/

theorem test_decode_add : decodeWord 0b00000000001100010000000010110011 =
    some (.add [.register 1, .register 2, .register 3]) := by decide
theorem test_decode_sub : decodeWord 0b01000000001100010000000010110011 =
    some (.sub [.register 1, .register 2, .register 3]) := by decide
theorem test_decode_mul : decodeWord 0b00000011111100010000000010110011 =
    some (.mul [.register 1, .register 2, .register 31]) := by decide
theorem test_decode_sll : decodeWord 0b00000000001111111001000010110011 =
    some (.sll [.register 1, .register 31, .register 3]) := by decide
theorem test_decode_addi : decodeWord 0b10000000000000010000111110010011 =
    some (.addi [.register 31, .register 2, .immediate (-2048)]) := by decide
theorem test_decode_slt : decodeWord 0b00000000001100010010000010110011 =
    some (.slt [.register 1, .register 2, .register 3]) := by decide
theorem test_decode_sltu : decodeWord 0b00000000001100010011000010110011 =
    some (.sltu [.register 1, .register 2, .register 3]) := by decide
theorem test_decode_xor : decodeWord 0b00000000001100010100000010110011 =
    some (.xor [.register 1, .register 2, .register 3]) := by decide
theorem test_decode_srl : decodeWord 0b00000000001100010101000010110011 =
    some (.srl [.register 1, .register 2, .register 3]) := by decide
theorem test_decode_sra : decodeWord 0b01000000001100010101000010110011 =
    some (.sra [.register 1, .register 2, .register 3]) := by decide
theorem test_decode_or : decodeWord 0b00000000001100010110000010110011 =
    some (.or [.register 1, .register 2, .register 3]) := by decide
theorem test_decode_and : decodeWord 0b00000000001100010111000010110011 =
    some (.and [.register 1, .register 2, .register 3]) := by decide

/-! ### WellFormed: a term that each check refuses -/

theorem test_illformed_immediate :
    (Instr.addi [.register 1, .register 0, .immediate 2147483648]).wellFormed Config.defaultImmRange = false := by
  decide
theorem test_illformed_bundle :
    (Instruction.mk "foo".toList [.immediate 2048]).wellFormed Config.narrowImmRange = false := by decide
theorem test_no_line_negative_index :
    (Instr.add [.register 1, .register 2, .register (-3)]).hasLine Config.defaultImmRange = false := by decide
theorem test_no_line_count : (Instr.add [.register 1, .register 2]).hasLine Config.defaultImmRange = false := by decide
theorem test_no_line_range :
    (Instr.addi [.register 1, .register 2, .immediate 2048]).hasLine Config.narrowImmRange = false := by decide
theorem test_no_word_index : (Instr.add [.register 32, .register 2, .register 3]).hasWord = false := by decide
theorem test_no_word_immediate :
    (Instr.addi [.register 1, .register 2, .immediate 2048]).hasWord = false := by decide
theorem test_no_word_kind : (Instr.addi [.register 1, .register 2, .register 3]).hasWord = false := by decide
theorem test_illegal_parameter : (ImmRange.mk (-2147483649) 0).fits32 = false := by decide

/-! ### Witnesses: states and operands that meet the hypotheses of the statements -/

/-- ResetClearsEverySlot, RstReturnsNothing -/
theorem witness_rst : (stateOf 2 1 3 2 [.rst, .rst]).requests = .rst :: [.rst] := rfl
/-- IdleStepChangesNoSlot -/
theorem witness_idle : (stateOf 2 1 3 2 []).requests = [] := rfl
/-- StepRunsDecodedInstruction, its line clause -/
theorem witness_line_decodes :
    decodeLine Config.defaultImmRange "addi x31, x0, -2147483648".toList =
      .ok (.addi [.register 31, .register 0, .immediate (-2147483648)]) := by decide
/-- StepRunsDecodedInstruction, its bundle clause -/
theorem witness_bundle_resolves :
    (Instruction.mk "xor".toList []).wellFormed Config.defaultImmRange = true ∧
      resolve ⟨"xor".toList, []⟩ = .ok (.xor []) := by decide
/-- StepRunsDecodedInstruction, its word clauses; DecodedWordEncodesBack -/
theorem witness_word_decodes :
    decodeTableWord 32 0x80000013 = some (.addi [.register 0, .register 0, .immediate (-2048)]) ∧
      (Instr.addi [.register 0, .register 0, .immediate (-2048)]).wellFormed Config.defaultImmRange = true := by
  decide
/-- AddiWritesSumWithLiteral, ArithmeticIsModuloWordSize, SlotZeroIsWritable, SourceIsReadBeforeDestination -/
theorem witness_immediate_in_range :
    State.reset.immRange.contains (-2147483648) = true ∧ State.reset.immRange.contains 2147483647 = true := by decide
/-- The kind clause of ErrsBy and of KindMismatchRule, by count and by tag -/
theorem witness_kinds_differ :
    [Operand.register 1, .register 2].map Operand.kind ≠ Format.rType.kinds ∧
      [Operand.register 1, .register 2, .register 3].map Operand.kind ≠ Format.iType.kinds := by decide
/-- The range clause of ErrsBy and RangeErrorOnPorts, just outside at both ends -/
theorem witness_bad_index :
    [Operand.register 31, .register 32, .register (-1)].map Operand.kind = Format.rType.kinds ∧
      [Operand.register 31, .register 32, .register (-1)].findSome? badIndex = some 32 ∧
      [Operand.register 0, .register (-1), .immediate 5].map Operand.kind = Format.iType.kinds ∧
      [Operand.register 0, .register (-1), .immediate 5].findSome? badIndex = some (-1) := by decide
/-- ArithmeticIsModuloWordSize, its last clause -/
theorem witness_division : "remu".toList ∈ ["div".toList, "divu".toList, "rem".toList, "remu".toList] := by decide
/-- AddiLoadsChosenValue; ParameterIsFixed -/
theorem witness_zeroed_file :
    State.reset.x[(0 : Fin 32)] = 0 ∧ ParameterLegal State.reset ∧
      State.reset.immRange.contains (-2147483648) = true := ⟨by decide, rfl, by decide⟩
/-- SevenRaiseUnsupported -/
theorem witness_unsupported : implemented (.and [.immediate 5]) = false := rfl
/-- UnsupportedLinesRejected, both clauses -/
theorem witness_unsupported_line :
    parse Config.defaultImmRange "xor x1, x2, 5".toList =
        .ok ⟨"xor".toList, [.register 1, .register 2, .immediate 5]⟩ ∧
      "xor".toList ∈ unsupportedMnemonics ∧
      parse Config.defaultImmRange "xor".toList = .error .badArity := by decide
/-- UnknownMnemonicsRejected -/
theorem witness_unknown_line :
    parse Config.defaultImmRange "addu x1, x2, x3".toList =
        .ok ⟨"addu".toList, [.register 1, .register 2, .register 3]⟩ ∧
      "addu".toList ∉ implementedMnemonics ++ unsupportedMnemonics := by decide
/-- KindMismatchRule, its text clause, one line for each side -/
theorem witness_mismatch_lines :
    decodeLine Config.defaultImmRange "add x1, x2, 5".toList =
        .ok (.add [.register 1, .register 2, .immediate 5]) ∧
      decodeLine Config.defaultImmRange "addi x1, x2, x3".toList =
        .ok (.addi [.register 1, .register 2, .register 3]) ∧
      implemented (.add [.register 1, .register 2, .immediate 5]) = true := by decide
/-- FirstBadIndexReported, RangeErrorOnPorts: all hypotheses together, at the upper end -/
theorem witness_first_bad_upper :
    implemented (.add [.register 31, .register 32, .register 99]) = true ∧
      (Instr.add [.register 31, .register 32, .register 99]).operands.map Operand.kind = Format.rType.kinds ∧
      (Instr.add [.register 31, .register 32, .register 99]).operands =
        [.register 31] ++ .register 32 :: [.register 99] ∧
      (∀ m, Operand.register m ∈ [Operand.register 31] → 0 ≤ m ∧ m ≤ 31) ∧
      (Instr.add [.register 31, .register 32, .register 99]).operands.findSome? badIndex = some 32 := by
  refine ⟨rfl, rfl, rfl, fun m h => ?_, rfl⟩
  simp only [List.mem_singleton, Operand.register.injEq] at h
  omega
/-- FirstBadIndexReported: all hypotheses together, at the lower end -/
theorem witness_first_bad_lower :
    implemented (.addi [.register 0, .register (-1), .immediate 5]) = true ∧
      (Instr.addi [.register 0, .register (-1), .immediate 5]).operands.map Operand.kind = Format.iType.kinds ∧
      (Instr.addi [.register 0, .register (-1), .immediate 5]).operands =
        [.register 0] ++ .register (-1) :: [.immediate 5] ∧
      (∀ m, Operand.register m ∈ [Operand.register 0] → 0 ≤ m ∧ m ≤ 31) := by
  refine ⟨rfl, rfl, rfl, fun m h => ?_⟩
  simp only [List.mem_singleton, Operand.register.injEq] at h
  omega
/-- KindMismatchRule, its first clause: all hypotheses together -/
theorem witness_wrong_count :
    implemented (.mul [.register 1, .register 2]) = true ∧
      (Instr.mul [.register 1, .register 2]).operands.length ≠ 3 := by decide
/-- LineStepIsTransact, TransactionDependsOnLineAndFile, SuccessWritesOneSlot, OnlySuccessOrResetChangesSlots,
StepLeavesTrueReport, ParameterIsFixed -/
theorem witness_success :
    ∃ t report, step (stateOf 2 1 3 2 [.line "add x1, x2, x3".toList]) = .next t ∧
      t.response = some (.ok report) ∧ t.x ≠ (stateOf 2 1 3 2 []).x := ⟨_, _, rfl, rfl, by decide⟩
/-- ErrorLeavesRegisterFile -/
theorem witness_error :
    ∃ t e, step (stateOf 2 1 3 2 [.line "add".toList]) = .next t ∧ t.response = some (.err e) := ⟨_, _, rfl, rfl⟩
/-- BundleStepIsExecute, both clauses -/
theorem witness_bundles :
    (∃ v, Operand.immediate v ∈ [Operand.immediate 2147483648] ∧ Config.defaultImmRange.contains v = false) ∧
      (∀ v, Operand.immediate v ∈ [Operand.immediate 2147483647] → Config.defaultImmRange.contains v = true) := by
  refine ⟨⟨2147483648, by decide, by decide⟩, fun v h => ?_⟩
  simp only [List.mem_singleton, Operand.immediate.injEq] at h
  subst h
  decide
/-- WordStepIsItsBundle, both clauses -/
theorem witness_words :
    rowAdd ∈ opcodeTable ∧ rowAdd.hasFixedBits 0x00000033 = true ∧
      ∀ row ∈ opcodeTable, row.hasFixedBits 0xFFFFFFFF = false :=
  ⟨List.mem_cons_self, by decide, by decide⟩
/-- SlotZeroIsWritable, its second clause -/
theorem witness_slot_zero :
    implemented (.addi [.register 0, .register 31, .immediate 5]) = true ∧
      (Instr.addi [.register 0, .register 31, .immediate 5]).operands = slotOperands .iType 0 31 0 5 := by decide
/-- ReadsOnlyNamedSlots and ResponsePortsAfterInstruction: two states that differ in a slot not named -/
theorem witness_named_slots :
    (Instr.add [.register 1, .register 2, .register 3]).operands = slotOperands .rType 1 2 3 0 ∧
      (stateOf 2 1 4 9 []).x[(2 : Fin 32)] = (stateOf 2 1 4 8 []).x[(2 : Fin 32)] ∧
      (stateOf 2 1 4 9 []).x[(3 : Fin 32)] = (stateOf 2 1 4 8 []).x[(3 : Fin 32)] := by decide
/-- RequestsServedInOrder, ServableStepsForever: a stream of every kind of request -/
theorem witness_servable :
    Servable (stateOf 2 1 3 2
      [.line "foo".toList, .rst, .bundle ⟨"add".toList, []⟩, .word 0x00700093]) := by
  have h : ([.line "foo".toList, .rst, .bundle ⟨"add".toList, []⟩, .word 0x00700093] : List Request).all
      (admissible Config.defaultImmRange) = true := by decide
  exact fun q hq => List.all_eq_true.mp h q hq
/-- LineRoundTrip, SpaceFormRoundTrip: an index of any size, the end of the range -/
theorem witness_has_line :
    (Instr.add [.register 4294967296, .register 0, .register 31]).hasLine Config.defaultImmRange = true ∧
      (Instr.addi [.register 1, .register 0, .immediate (-2147483648)]).hasLine Config.defaultImmRange = true := by
  decide
/-- WordRoundTrip -/
theorem witness_has_word :
    (Instr.and [.register 31, .register 0, .register 31]).hasWord = true ∧
      (Instr.addi [.register 31, .register 0, .immediate (-2048)]).hasWord = true := by decide
/-- CaseAndMarginsIgnored -/
theorem witness_margins :
    Blank [' ', '\t'] ∧ lower "ADD X1, x2, X3".toList = lower "add x1, x2, x3".toList ∧ Blank [] := by
  exact ⟨by simp [Blank, isSpace], by decide, by simp [Blank]⟩
/-- TokensReadInBothForms, WrongCountIsBadArity -/
theorem witness_tokens :
    Solid ['a', ',', 'b'] ∧ Token ['X', '0', '7'] ∧ Token ['-', '5'] ∧ Blank ['\n'] := by
  simp [Solid, Token, Blank, isSpace]
/-- WrongCountIsBadArity, its first clause -/
theorem witness_count :
    ¬ Blank ['n', 'o', 'p'] ∧ operandTokens (operandText (normalise ['n', 'o', 'p'])) = .ok [] :=
  ⟨by simp [Blank, isSpace], by decide⟩
/-- CommaFormTokens: good pieces, an empty piece, a piece that holds whitespace -/
theorem witness_bad_pieces :
    Solid (trim [' ', 'x', '1']) ∧ trim [' '] = [] ∧ (∃ c ∈ trim ['x', '2', ' ', 'x', '3'], isSpace c = true) ∧
      ∀ p ∈ [['x', '1'], [' '], ['x', '2', ' ', 'x', '3']], ',' ∉ p :=
  ⟨by simp [Solid, trim, isSpace], by decide, ⟨' ', by decide, by decide⟩, by simp⟩
/-- RegisterTokenRule, ImmediateTokenRule: a digit string, and tokens that are none -/
theorem witness_digits :
    DigitString ['0', '0', '7'] ∧ ¬ DigitString [] ∧ ¬ DigitString ['0', 'x', '1', '0'] := by
  simp [DigitString]
/-- OperandPositionsReadInOrder: a register token, two tokens that are none, an immediate in range, one out -/
theorem witness_positions :
    RegisterToken ['x', '0', '7'] ∧ ¬ RegisterToken ['x', 'z'] ∧ ¬ RegisterToken ['5'] ∧
      ['-', '5'].head? ≠ some 'x' ∧
      immTok Config.narrowImmRange ['-', '2', '0', '4', '8'] = .ok (.immediate (-2048)) ∧
      immTok Config.narrowImmRange ['2', '0', '4', '8'] = .error .badImmediate := by
  refine ⟨⟨_, rfl, by simp [DigitString]⟩, ?_, ?_, by decide, by decide, by decide⟩
  · rintro ⟨d, h, hd⟩
    cases h
    simp [DigitString] at hd
  · rintro ⟨d, h, -⟩
    cases h
/-- ResponsePortsShowOutcome, both clauses; ErrorCodesAreOneToEight, its port clauses -/
theorem witness_outcomes :
    (∃ report, (transact Config.defaultImmRange "add x1, x2, x3".toList State.reset.x).1 = .ok report) ∧
      (transact Config.defaultImmRange "add x1, x40, x33".toList State.reset.x).1 =
        .err (.exec (.registerOutOfRange 40)) ∧
      (transact Config.defaultImmRange "add".toList State.reset.x).1 = .err (.parse .badArity) :=
  ⟨⟨_, rfl⟩, rfl, rfl⟩
/-- ParsedRecordShape -/
theorem witness_parses :
    parse Config.narrowImmRange "Foo x99 x0 -2048".toList =
      .ok ⟨"foo".toList, [.register 99, .register 0, .immediate (-2048)]⟩ := by decide
/-- ImmediateIsItsOwnValue -/
theorem witness_fits :
    Config.defaultImmRange.fits32 = true ∧ Config.defaultImmRange.contains (-2147483648) = true := by decide
/-- FormatIsMessageAndDump -/
theorem witness_message : ((makeReport 31 (-1) State.reset.x).message.all fun c => c != '\n') = true := by decide
/-- PriorityExamples -/
theorem witness_default_range : (stateOf 2 1 3 2 []).immRange = Config.defaultImmRange := rfl

end Sys2Proof.Tests
end

section
/-! SUPPORT. The parameter `ImmRange` is a constant of every run (00_scope.md R8, R9). -/

namespace Sys2Proof.Proofs

open Sys2Proof.Machine Sys2Proof.Safety

/-- Frame of a step: whatever the request was, a next state has the parameter of the state before. -/
theorem step_immRange {s t : State} (h : step s = .next t) : t.immRange = s.immRange := by
  rcases step_cases s with ⟨-, hs⟩ | ⟨-, hs⟩ | ⟨e, hs, -⟩ | ⟨i, rd, v, -, hs⟩ | ⟨r, -, hs⟩ <;>
    rw [hs] at h <;> cases h
  · exact idle_immRange s
  · rw [pulseReset_immRange, takeRequest_immRange]
  · rw [raise_immRange, takeRequest_immRange]
  · rw [complete_immRange, takeRequest_immRange]

/-- Legality speaks of `ImmRange` alone, so states with the same parameter are legal together. -/
theorem parameterLegal_congr {s t : State} (h : t.immRange = s.immRange) :
    ParameterLegal t ↔ ParameterLegal s := by
  rw [ParameterLegal, ParameterLegal, h]

/-- Settles O36: the frame of a step, and legality depends on the parameter only. -/
theorem parameterIsFixed : Obligations.ParameterIsFixed := by
  intro s t h
  have hframe : t.immRange = s.immRange := step_immRange h
  exact ⟨hframe, (parameterLegal_congr hframe).mpr⟩

end Sys2Proof.Proofs
end

section
/-! SUPPORT. What `exec` does, said once for the two classes of instruction (30_encoding.md R76, R78):
an unsupported one raises its error, a computing one on valid operands completes with its operation on
the named sources (40_execution.md R101 to R107). -/

namespace Sys2Proof.Proofs

open Sys2Proof.Machine Sys2Proof.Safety

/-- Where a format takes the second source from: the slot `rs2`, or the literal `v` (R74, R104). -/
def secondSource (f : Format) (rs2 : Fin 32) (v : Int) : Source :=
  match f with
  | .rType => .slot rs2
  | .iType => .literal v

theorem validate_slotOperands (f : Format) (rd rs1 rs2 : Fin 32) (v : Int) :
    validate f (slotOperands f rd rs1 rs2 v) =
      .ok { rd := rd, rs1 := rs1, src2 := secondSource f rs2 v } := by
  cases f with
  | rType => exact validate_rType rd rs1 rs2
  | iType => exact validate_iType rd rs1 v

theorem compute_slotOperands (f : Format) (op : Word → Word → Word) (rd rs1 rs2 : Fin 32) (v : Int)
    (s : State) :
    compute f op (slotOperands f rd rs1 rs2 v) s =
      .next (complete s rd (op s.x[rs1] (sourceValue s (secondSource f rs2 v)))) := by
  simp only [compute, validate_slotOperands, readSlot_eq]

/-- An unsupported instruction is rejected whatever its operands (R160). -/
theorem exec_unsupported {i : Instr} (h : implemented i = false) (s : State) :
    exec i s = rejectUnsupported s := by
  cases i with
  | add | sub | mul | sll | addi => cases h
  | slt | sltu | xor | srl | sra | or | and => rfl

/-- An instruction with wired semantics is `compute` around one operation, the same in every state. -/
theorem exec_implemented {i : Instr} (h : implemented i = true) :
    ∃ op, ∀ s, exec i s = compute i.format op i.operands s := by
  cases i with
  | add => exact ⟨sumOp, fun _ => rfl⟩
  | sub => exact ⟨differenceOp, fun _ => rfl⟩
  | mul => exact ⟨productOp, fun _ => rfl⟩
  | sll => exact ⟨shiftLeftOp, fun _ => rfl⟩
  | addi => exact ⟨sumImmOp, fun _ => rfl⟩
  | slt | sltu | xor | srl | sra | or | and => cases h

/-- On valid operands a computing instruction completes: it writes `x[rd]` with one operation, the same
in every state, on its two sources. -/
theorem exec_of_slotOperands {i : Instr} {rd rs1 rs2 : Fin 32} {v : Int} (h : implemented i = true)
    (hops : i.operands = slotOperands i.format rd rs1 rs2 v) :
    ∃ op : Word → Word → Word, ∀ s, exec i s =
      .next (complete s rd (op s.x[rs1] (sourceValue s (secondSource i.format rs2 v)))) := by
  obtain ⟨op, hexec⟩ := exec_implemented h
  exact ⟨op, fun s => by rw [hexec, hops, compute_slotOperands]⟩

/-- The second source depends on the file through the slot it names, if it names one (R23). -/
theorem sourceValue_secondSource_congr {f : Format} {rs2 : Fin 32} {s s' : State} (v : Int)
    (h : f = .rType → s.x[rs2] = s'.x[rs2]) :
    sourceValue s (secondSource f rs2 v) = sourceValue s' (secondSource f rs2 v) := by
  cases f with
  | rType => exact h rfl
  | iType => rfl

/-- `add` on three slots, in terms of the Register File (R130). -/
theorem exec_add_slotOperands (s : State) (rd rs1 rs2 : Fin 32) (v : Int) :
    exec (.add (slotOperands .rType rd rs1 rs2 v)) s =
      .next (complete s rd (s.x[rs1] + s.x[rs2])) := by
  rw [← sumOp_eq]
  exact compute_slotOperands .rType sumOp rd rs1 rs2 v s

end Sys2Proof.Proofs
end

section
/-! SUPPORT. The rules of the Register File (10_state.md R22, R23, R32). -/

namespace Sys2Proof.Proofs

open Sys2Proof.Machine Sys2Proof.Safety

/-- The slot law of the Register File: no slot is hard-wired (R22). -/
theorem readSlot_writeSlot (s : State) (i j : Fin 32) (v : Word) :
    readSlot (writeSlot s i v) j = if j = i then v else readSlot s j := by
  split
  case isTrue h =>
    subst h
    exact readSlot_writeSlot_self s j v
  case isFalse h => exact readSlot_writeSlot_ne s v h

/-- Settles O12: the slot law, and the result completed into `x0` is what a later `add` reads there. -/
theorem slotZeroIsWritable : Obligations.SlotZeroIsWritable := by
  refine ⟨readSlot_writeSlot, fun i s a b d v himpl hops => ?_⟩
  obtain ⟨op, hexec⟩ := exec_of_slotOperands himpl hops
  refine ⟨_, _, _, hexec s, complete_response .., ?_, readSlot_eq .., exec_add_slotOperands .., ?_⟩
  · rw [complete_x_self, makeReport]
  · exact complete_x_self ..

/-- Settles O29: an unsupported instruction raises, which touches no slot; a computing one applies one
operation to the named sources, on which the two states agree, and completes into `x[rd]` alone. -/
theorem readsOnlyNamedSlots : Obligations.ReadsOnlyNamedSlots := by
  constructor
  · intro i s hunsupp
    exact ⟨_, exec_unsupported hunsupp s, raise_x ..⟩
  · intro i s s' rd rs1 rs2 v himpl hops hsrc1 hsrc2
    obtain ⟨op, hexec⟩ := exec_of_slotOperands himpl hops
    refine ⟨_, _, hexec s, hexec s', ?_, fun j => complete_x_ne s _, fun j => complete_x_ne s' _⟩
    rw [complete_x_self, complete_x_self, hsrc1, sourceValue_secondSource_congr v hsrc2]

/-- Only a pulse on `rst` is fetched as one. -/
theorem fetchRequest_eq_rst {r : ImmRange} {q : Request} (h : fetchRequest r q = .rst) : q = .rst := by
  cases q with
  | rst => rfl
  | line l =>
    rw [fetchRequest, fetchLine] at h
    split at h <;> cases h
  | bundle b =>
    rw [fetchRequest, fetchBundle] at h
    repeat' split at h
    all_goals cases h
  | word w =>
    rw [fetchRequest, fetchWord] at h
    repeat' split at h
    all_goals cases h

theorem head?_of_fetch_rst {s : State} (h : fetch s = .rst) : s.requests.head? = some .rst := by
  rw [fetch] at h
  split at h
  · cases h
  · next q rest hreq => rw [hreq, List.head?_cons, fetchRequest_eq_rst h]

/-- Settles O27: of all that a step can do, idling and an error keep the file and report nothing, a
reset comes from `rst`, and a completed instruction reports the file it leaves. -/
theorem onlySuccessOrResetChangesSlots : Obligations.OnlySuccessOrResetChangesSlots := by
  intro s t h
  rcases step_cases s with ⟨-, hs⟩ | ⟨hrst, hs⟩ | ⟨e, hs, -⟩ | ⟨i, rd, v, -, hs⟩ | ⟨r, -, hs⟩ <;>
    rw [hs] at h <;> cases h
  case inl => exact ⟨fun hne => absurd (idle_x s) hne, by simp⟩
  case inr.inl => exact ⟨fun _ => .inr (head?_of_fetch_rst hrst), by simp⟩
  case inr.inr.inl => exact ⟨fun hne => absurd (raise_x (takeRequest s) e) hne, by simp⟩
  case inr.inr.inr.inl =>
    refine ⟨fun _ => .inl ⟨_, complete_response ..⟩, fun report hreport => ?_⟩
    cases hreport
    rfl

end Sys2Proof.Proofs
end

section
/-! SUPPORT. The machine against the engine written apart from it in Safety.lean (40_execution.md R100
to R107): what `exec` does with an instruction is `transactBundle` on its bundle. -/

namespace Sys2Proof.Proofs

open Sys2Proof.Machine Sys2Proof.Safety

/-- The state after a transaction with a given outcome: its response on the port, its file in the slots. -/
def endTransaction (s : State) (outcome : Response × RegFile) : State :=
  { s with x := outcome.2, response := some outcome.1 }

/-- `raise` is the end of a transaction with an error (R110). -/
theorem endTransaction_err (s : State) (e : ErrorKind) : endTransaction s (.err e, s.x) = raise s e := rfl

/-- `complete` is the end of a transaction with the report of its write (R106, R107). -/
theorem endTransaction_ok (s : State) (rd : Fin 32) (v : Word) :
    endTransaction s (.ok (makeReport rd v (s.x.set rd.val v rd.isLt)), s.x.set rd.val v rd.isLt) =
      complete s rd v := rfl

/-! ### The Opcode Table and `semantics` (R76 to R78) -/

/-- A row builds an instruction with that row's mnemonic and the operands it is given. -/
theorem mnemonic_operands_build {row : OpcodeRow} (h : row ∈ opcodeTable) (ops : List Operand) :
    (row.build ops).row.mnemonic = row.mnemonic ∧ (row.build ops).operands = ops := by
  revert row
  simp only [opcodeTable, List.forall_mem_cons]
  exact ⟨⟨rfl, rfl⟩, ⟨rfl, rfl⟩, ⟨rfl, rfl⟩, ⟨rfl, rfl⟩, ⟨rfl, rfl⟩, ⟨rfl, rfl⟩, ⟨rfl, rfl⟩, ⟨rfl, rfl⟩,
    ⟨rfl, rfl⟩, ⟨rfl, rfl⟩, ⟨rfl, rfl⟩, ⟨rfl, rfl⟩, by simp⟩

/-- What the lookup finds carries the mnemonic and the operands of the bundle. -/
theorem opcode_operands_of_resolve {b : Instruction} {i : Instr} (h : resolve b = .ok i) :
    b.opcode = i.row.mnemonic ∧ b.operands = i.operands := by
  rw [resolve] at h
  split at h
  · next row hfind =>
    cases h
    obtain ⟨hmnemonic, hoperands⟩ := mnemonic_operands_build (List.mem_of_find?_eq_some hfind) b.operands
    have hopcode : row.mnemonic = b.opcode := by simpa using List.find?_some hfind
    exact ⟨hopcode.symm.trans hmnemonic.symm, hoperands.symm⟩
  · cases h

/-- The lookup of an instruction's own bundle gives the instruction back. -/
theorem resolve_bundle (i : Instr) :
    resolve { opcode := i.row.mnemonic, operands := i.operands } = .ok i := by
  cases i with
  | add ops => exact (Laws.Lookup.add ops).1
  | sub ops => exact (Laws.Lookup.sub ops).1
  | mul ops => exact (Laws.Lookup.mul ops).1
  | sll ops => exact (Laws.Lookup.sll ops).1
  | addi ops => exact (Laws.Lookup.addi ops).1
  | slt ops => exact (Laws.Lookup.slt ops).1
  | sltu ops => exact (Laws.Lookup.sltu ops).1
  | xor ops => exact (Laws.Lookup.xor ops).1
  | srl ops => exact (Laws.Lookup.srl ops).1
  | sra ops => exact (Laws.Lookup.sra ops).1
  | or ops => exact (Laws.Lookup.or ops).1
  | and ops => exact (Laws.Lookup.and ops).1

/-- The table's mnemonics are the two classes of R76 and R78. -/
theorem mnemonics_opcodeTable :
    opcodeTable.map OpcodeRow.mnemonic = implementedMnemonics ++ unsupportedMnemonics := rfl

/-- A mnemonic of neither class has no semantics (R77). -/
theorem semantics_of_unknown {m : Text} (h : m ∉ implementedMnemonics ++ unsupportedMnemonics) :
    semantics m = none := by
  simp only [List.mem_append, implementedMnemonics, List.mem_cons, List.not_mem_nil, or_false,
    not_or] at h
  obtain ⟨⟨hadd, hsub, hmul, hsll, haddi⟩, hunsupported⟩ := h
  rw [semantics, if_neg hadd, if_neg hsub, if_neg hmul, if_neg hsll, if_neg haddi,
    if_neg hunsupported]

/-- The lookup has one error, on a mnemonic of neither class (R77). -/
theorem resolve_error {b : Instruction} {e : ExecError} (h : resolve b = .error e) :
    e = .unknownOpcode ∧ b.opcode ∉ implementedMnemonics ++ unsupportedMnemonics := by
  rw [resolve] at h
  split at h
  · cases h
  · next hfind =>
    cases h
    refine ⟨rfl, fun hmem => ?_⟩
    rw [← mnemonics_opcodeTable] at hmem
    obtain ⟨row, hrow, hmnemonic⟩ := List.mem_map.mp hmem
    exact List.find?_eq_none.mp hfind row hrow (beq_iff_eq.mpr hmnemonic)

/-- The seven are known without an operation (R78). -/
theorem semantics_of_unsupported {i : Instr} (h : implemented i = false) :
    semantics i.row.mnemonic = some none := by
  cases i with
  | add | sub | mul | sll | addi => cases h
  | slt | sltu | xor | srl | sra | or | and => rfl

/-- The five compute the operation of step 5 that `semantics` names for their mnemonic. -/
theorem semantics_of_implemented {i : Instr} (h : implemented i = true) :
    ∃ op, semantics i.row.mnemonic = some (some (i.format, op)) ∧
      ∀ s, exec i s = compute i.format op i.operands s := by
  cases i with
  | add ops => exact ⟨_, rfl, fun s => congrArg (compute _ · ops s) (funext₂ sumOp_eq)⟩
  | sub ops => exact ⟨_, rfl, fun s => congrArg (compute _ · ops s) (funext₂ differenceOp_eq)⟩
  | mul ops => exact ⟨_, rfl, fun s => congrArg (compute _ · ops s) (funext₂ productOp_eq)⟩
  | sll ops => exact ⟨_, rfl, fun s => congrArg (compute _ · ops s) (funext₂ shiftLeftOp_eq)⟩
  | addi ops => exact ⟨_, rfl, fun s => congrArg (compute _ · ops s) (funext₂ sumImmOp_eq)⟩
  | slt | sltu | xor | srl | sra | or | and => cases h

/-! ### The engine's steps 2 to 7 -/

section Computing

variable {b : Instruction} {f : Format} {op : Word → Word → Word}

/-- Step 2 of the engine (R102); a wrong count is a wrong list of kinds. -/
theorem execute_of_kinds_ne (hsem : semantics b.opcode = some (some (f, op)))
    (hkinds : b.operands.map Operand.kind ≠ f.kinds) (X : RegFile) :
    execute b X = .error .operandKindMismatch := by
  simp only [execute, hsem, if_pos (Or.inr hkinds)]

theorem length_of_kinds {ops : List Operand} (h : ops.map Operand.kind = f.kinds) : ops.length = 3 := by
  rw [← List.length_map Operand.kind, h]
  cases f <;> rfl

/-- Step 3 of the engine (R103). -/
theorem execute_of_badIndex (hsem : semantics b.opcode = some (some (f, op)))
    (hkinds : b.operands.map Operand.kind = f.kinds) {n : Int}
    (hbad : b.operands.findSome? badIndex = some n) (X : RegFile) :
    execute b X = .error (.registerOutOfRange n) := by
  simp [execute, hsem, hkinds, length_of_kinds hkinds, hbad]

theorem badIndex_fin (k : Fin 32) : badIndex (.register k.val) = none := by
  rw [badIndex, if_neg (by omega)]

theorem badIndex_immediate (v : Int) : badIndex (.immediate v) = none := rfl

theorem kinds_slotOperands (f : Format) (rd rs1 rs2 : Fin 32) (v : Int) :
    (slotOperands f rd rs1 rs2 v).map Operand.kind = f.kinds := by
  cases f <;> rfl

theorem findSome?_badIndex_slotOperands (f : Format) (rd rs1 rs2 : Fin 32) (v : Int) :
    (slotOperands f rd rs1 rs2 v).findSome? badIndex = none := by
  cases f with
  | rType => simp only [slotOperands, List.findSome?, badIndex_fin]
  | iType => simp only [slotOperands, List.findSome?, badIndex_fin, badIndex_immediate]

/-- Steps 4 to 7 of the engine on three slots, or two slots and a literal (R104 to R107). -/
theorem execute_slotOperands (hsem : semantics b.opcode = some (some (f, op))) {rd rs1 rs2 : Fin 32}
    {v : Int} (hops : b.operands = slotOperands f rd rs1 rs2 v) (s : State) :
    let result := op s.x[rs1] (sourceValue s (secondSource f rs2 v))
    let after := s.x.set rd.val result rd.isLt
    execute b s.x = .ok (makeReport rd result after, after) := by
  have hkinds := kinds_slotOperands f rd rs1 rs2 v
  simp only [execute, hsem, hops, hkinds, length_of_kinds hkinds, findSome?_badIndex_slotOperands]
  cases f <;> simp [slotOperands, slotNumber, operandValue, sourceValue, secondSource, bv32]

/-- `compute` around the operation that `semantics` names is the engine. -/
theorem compute_eq_transactBundle (hsem : semantics b.opcode = some (some (f, op))) (s : State) :
    compute f op b.operands s = .next (endTransaction s (transactBundle b s.x)) := by
  by_cases hkinds : b.operands.map Operand.kind = f.kinds
  · cases hbad : b.operands.findSome? badIndex with
    | some n =>
      simp only [compute, validate_of_badIndex hkinds hbad, transactBundle,
        execute_of_badIndex hsem hkinds hbad, endTransaction_err]
    | none =>
      obtain ⟨rd, rs1, rs2, v, hops⟩ := validate_of_no_badIndex hkinds hbad
      rw [transactBundle, execute_slotOperands hsem hops, hops, compute_slotOperands]
      exact congrArg _ (endTransaction_ok ..).symm
  · simp only [compute, validate_of_kinds_ne hkinds, transactBundle, execute_of_kinds_ne hsem hkinds,
      endTransaction_err]

end Computing

/-- An instruction does what the engine does with a bundle that resolves to it (R101 to R107). -/
theorem exec_eq_transactBundle {b : Instruction} {i : Instr} (h : resolve b = .ok i) (s : State) :
    exec i s = .next (endTransaction s (transactBundle b s.x)) := by
  obtain ⟨hopcode, hoperands⟩ := opcode_operands_of_resolve h
  cases himpl : implemented i with
  | true =>
    obtain ⟨op, hsem, hexec⟩ := semantics_of_implemented himpl
    rw [hexec, ← hoperands, compute_eq_transactBundle (hopcode ▸ hsem)]
  | false =>
    have hsem : semantics b.opcode = some none := hopcode ▸ semantics_of_unsupported himpl
    rw [exec_unsupported himpl, rejectUnsupported]
    simp only [transactBundle, execute, hsem, endTransaction_err]

/-- The engine rejects a bundle that the lookup rejects, with the same error (R101). -/
theorem transactBundle_of_resolve_error {b : Instruction} {e : ExecError} (h : resolve b = .error e)
    (X : RegFile) : transactBundle b X = (.err (.exec e), X) := by
  obtain ⟨rfl, hunknown⟩ := resolve_error h
  simp only [transactBundle, execute, semantics_of_unknown hunknown]

end Sys2Proof.Proofs
end

section
/-! SUPPORT. The host's stream is served one request at a time, each on the file that the one before
it left (20_memory.md R48). -/

namespace Sys2Proof.Proofs

open Sys2Proof.Machine Sys2Proof.Safety

/-! ### One step on each kind of request -/

section OneStep

variable {s : State} {rest : List Request}

theorem fetch_of_requests {q : Request} (h : s.requests = q :: rest) :
    fetch s = fetchRequest s.immRange q := by
  rw [fetch, h]

/-- A step that runs what a bundle resolves to is the engine's transaction on the bundle. -/
theorem step_of_fetch_run {b : Instruction} {i : Instr} (hfetch : fetch s = .run i)
    (hres : resolve b = .ok i) :
    step s = .next (endTransaction (takeRequest s) (transactBundle b s.x)) := by
  rw [step_run s i hfetch, exec_eq_transactBundle hres, takeRequest_x]

/-- So is a step that rejects a bundle for the lookup's error. -/
theorem step_of_fetch_reject {b : Instruction} {e : ExecError} (hfetch : fetch s = .reject (.exec e))
    (hres : resolve b = .error e) :
    step s = .next (endTransaction (takeRequest s) (transactBundle b s.x)) := by
  rw [step_reject s _ hfetch, transactBundle_of_resolve_error hres, ← takeRequest_x, endTransaction_err]

/-- A step on a well-formed bundle is the engine's transaction on it (R83). -/
theorem step_of_wellFormed_bundle {b : Instruction} (h : s.requests = .bundle b :: rest)
    (hwf : b.wellFormed s.immRange = true) :
    step s = .next (endTransaction (takeRequest s) (transactBundle b s.x)) := by
  have hfetch := fetch_of_requests h
  simp only [fetchRequest, fetchBundle, if_pos hwf] at hfetch
  cases hres : resolve b with
  | ok i => exact step_of_fetch_run (by simpa only [hres] using hfetch) hres
  | error e => exact step_of_fetch_reject (by simpa only [hres] using hfetch) hres

/-- A step on a line is the transaction of R100. -/
theorem step_of_line {l : Text} (h : s.requests = .line l :: rest) :
    step s = .next (endTransaction (takeRequest s) (transact s.immRange l s.x)) := by
  have hfetch := fetch_of_requests h
  simp only [fetchRequest, fetchLine, decodeLine] at hfetch
  rw [transact]
  cases hparse : parse s.immRange l with
  | error e => exact step_reject s _ (by simpa only [hparse] using hfetch)
  | ok b =>
    cases hres : resolve b with
    | ok i => exact step_of_fetch_run (by simpa only [hparse, hres] using hfetch) hres
    | error e => exact step_of_fetch_reject (by simpa only [hparse, hres] using hfetch) hres

/-- A step on a word is the engine's transaction on the bundle it stands for (R84). -/
theorem step_of_decodeWord {w : Word} {i : Instr} (h : s.requests = .word w :: rest)
    (hdec : decodeWord w = some i) (hwf : i.wellFormed s.immRange = true) :
    step s = .next (endTransaction (takeRequest s)
      (transactBundle { opcode := i.row.mnemonic, operands := i.operands } s.x)) := by
  have hfetch : fetch s = .run i := by
    simp only [fetch_of_requests h, fetchRequest, fetchWord, hdec, if_pos hwf]
  exact step_of_fetch_run hfetch (resolve_bundle i)

/-- A step on a request that has a meaning takes that request alone, and leaves the file that `serve`
gives. -/
theorem step_serves {q : Request} (h : s.requests = q :: rest) (hadm : admissible s.immRange q = true) :
    ∃ t, step s = .next t ∧ t.requests = rest ∧ t.x = serve s.immRange s.x q := by
  have htail : (takeRequest s).requests = rest := by rw [takeRequest_requests, h, List.tail_cons]
  cases q with
  | rst => exact ⟨_, step_rst s (fetch_of_requests h), htail, rfl⟩
  | line l => exact ⟨_, step_of_line h, htail, rfl⟩
  | bundle b => exact ⟨_, step_of_wellFormed_bundle h hadm, htail, rfl⟩
  | word w =>
    rw [admissible] at hadm
    rw [serve]
    cases hdec : decodeWord w with
    | none => simp [hdec] at hadm
    | some i =>
      rw [hdec] at hadm
      exact ⟨_, step_of_decodeWord h hdec hadm, htail, rfl⟩

end OneStep

/-! ### The whole stream -/

theorem run_succ {M : Host.Core} {s t : M.State} (h : M.step s = .next t) (k : Nat) :
    M.run (k + 1) s = M.run k t := by
  rw [Host.Core.run, h]

/-- What is left of a stream whose requests all have a meaning still has. -/
theorem servable_of_tail {s t : State} {q : Request} {rest : List Request} (hs : Servable s)
    (h : s.requests = q :: rest) (hrest : t.requests = rest) (himm : t.immRange = s.immRange) :
    Servable t := by
  intro p hp
  rw [himm]
  exact hs p (h ▸ List.mem_cons_of_mem q (hrest ▸ hp))

/-- Settles O30, by induction on the stream: a step serves its head, and the rest is served from there. -/
theorem requestsServedInOrder : Obligations.RequestsServedInOrder := by
  intro s
  generalize hreq : s.requests = stream
  induction stream generalizing s with
  | nil => exact fun _ => ⟨s, rfl, hreq, rfl, rfl⟩
  | cons q rest ih =>
    intro hserv
    obtain ⟨u, hstep, hrest, hx⟩ := step_serves hreq (hserv q (hreq ▸ List.mem_cons_self))
    have himm : u.immRange = s.immRange := step_immRange hstep
    obtain ⟨t, hrun, hdone, hrange, hfile⟩ := ih u hrest (servable_of_tail hserv hreq hrest himm)
    refine ⟨t, (run_succ (M := core) hstep rest.length).trans hrun, hdone, hrange.trans himm, ?_⟩
    rw [hfile, himm, hx, List.foldl_cons]

end Sys2Proof.Proofs
end

section
/-! SUPPORT. The informative words of R84: the fields of a packed word are what was packed, a word is the
packing of its own fields, and so the encoder and the decoder are inverse to each other. -/

namespace Sys2Proof.Proofs

open Sys2Proof.Machine Sys2Proof.Safety

/-! ### The rows of the Opcode Table -/

theorem row_mem_opcodeTable (i : Instr) : i.row ∈ opcodeTable := by
  cases i <;> simp [Instr.row, opcodeTable]

theorem format_row (i : Instr) : i.row.format = i.format := by cases i <;> rfl

theorem build_row (i : Instr) : i.row.build i.operands = i := by cases i <;> rfl

theorem row_build {row : OpcodeRow} (h : row ∈ opcodeTable) (ops : List Operand) :
    (row.build ops).row = row := by
  simp only [opcodeTable, List.mem_cons, List.not_mem_nil, or_false] at h
  rcases h with rfl | rfl | rfl | rfl | rfl | rfl | rfl | rfl | rfl | rfl | rfl | rfl <;> rfl

/-- The fixed bits of a row fit their fields. -/
theorem fixedBits_lt {row : OpcodeRow} (h : row ∈ opcodeTable) :
    row.opcode < 128 ∧ row.funct3 < 8 ∧ row.funct7.getD 0 < 128 := by
  revert row
  decide

/-- Exactly the R-type rows fix funct7. -/
theorem isSome_funct7_iff {row : OpcodeRow} (h : row ∈ opcodeTable) :
    row.funct7.isSome = true ↔ row.format = .rType := by
  revert row
  decide

theorem hasFixedBits_iff (row : OpcodeRow) (w : Word) :
    row.hasFixedBits w = true ↔
      field 6 0 w = row.opcode ∧ field 14 12 w = row.funct3 ∧ ∀ f ∈ row.funct7, field 31 25 w = f := by
  obtain ⟨_, _, opcode, funct3, funct7, _⟩ := row
  cases funct7 <;> simp [OpcodeRow.hasFixedBits, and_assoc]

/-- Two rows with the same opcode and funct3, and with the same funct7 where both fix it. -/
def FixedBitsAgree (row row' : OpcodeRow) : Prop :=
  row.opcode = row'.opcode ∧ row.funct3 = row'.funct3 ∧
    ∀ f ∈ row.funct7, ∀ f' ∈ row'.funct7, f = f'

theorem fixedBitsAgree_of_hasFixedBits {row row' : OpcodeRow} {w : Word} (h : row.hasFixedBits w = true)
    (h' : row'.hasFixedBits w = true) : FixedBitsAgree row row' := by
  obtain ⟨hopcode, hfunct3, hfunct7⟩ := (hasFixedBits_iff row w).mp h
  obtain ⟨hopcode', hfunct3', hfunct7'⟩ := (hasFixedBits_iff row' w).mp h'
  exact ⟨hopcode.symm.trans hopcode', hfunct3.symm.trans hfunct3',
    fun f hf f' hf' => (hfunct7 f hf).symm.trans (hfunct7' f' hf')⟩

theorem pairwise_not_fixedBitsAgree :
    opcodeTable.Pairwise fun row row' => ¬ FixedBitsAgree row row' := by
  unfold FixedBitsAgree
  decide

/-- Settles O42: a word with the fixed bits of two rows would make the rows' bits agree, and no two rows'
bits do. -/
theorem wordRowsAreDisjoint : Obligations.WordRowsAreDisjoint :=
  pairwise_not_fixedBitsAgree.imp fun hdisagree _ ⟨h, h'⟩ =>
    hdisagree (fixedBitsAgree_of_hasFixedBits h h')

theorem row_eq_of_hasFixedBits {row row' : OpcodeRow} {w : Word} (hrow : row ∈ opcodeTable)
    (hrow' : row' ∈ opcodeTable) (h : row.hasFixedBits w = true) (h' : row'.hasFixedBits w = true) :
    row = row' := by
  by_contra hne
  have : Std.Symm fun row row' : OpcodeRow => ¬ FixedBitsAgree row row' :=
    ⟨fun _ _ hdisagree ⟨hopcode, hfunct3, hfunct7⟩ =>
      hdisagree ⟨hopcode.symm, hfunct3.symm, fun f hf f' hf' => (hfunct7 f' hf' f hf).symm⟩⟩
  exact pairwise_not_fixedBitsAgree.forall hrow hrow' hne (fixedBitsAgree_of_hasFixedBits h h')

/-- The row whose fixed bits a word has is the one the front end finds. -/
theorem find?_hasFixedBits {row : OpcodeRow} {w : Word} (hrow : row ∈ opcodeTable)
    (h : row.hasFixedBits w = true) :
    opcodeTable.find? (fun row => row.hasFixedBits w) = some row := by
  cases hfind : opcodeTable.find? (fun row => row.hasFixedBits w) with
  | none => exact absurd h (List.find?_eq_none.mp hfind row hrow)
  | some row' =>
    have h' := List.find?_some (p := fun row : OpcodeRow => row.hasFixedBits w) hfind
    rw [row_eq_of_hasFixedBits (List.mem_of_find?_eq_some hfind) hrow h' h]

/-- What a word decodes to: the instruction whose row's fixed bits it has, with its fields as operands. -/
theorem decodeWord_eq_some_iff (w : Word) (i : Instr) :
    decodeWord w = some i ↔ i.row.hasFixedBits w = true ∧ i.operands = wordOperands i.format w := by
  constructor
  · intro h
    rw [decodeWord] at h
    split at h
    · next row hfind =>
      cases h
      have hrow := List.mem_of_find?_eq_some hfind
      rw [← format_row, row_build hrow, (mnemonic_operands_build hrow _).2]
      exact ⟨List.find?_some (p := fun row : OpcodeRow => row.hasFixedBits w) hfind, rfl⟩
    · cases h
  · rintro ⟨hfixed, hops⟩
    simp only [decodeWord, find?_hasFixedBits (row_mem_opcodeTable i) hfixed, format_row, ← hops, build_row]

/-! ### The fields of a word -/

theorem field_lt (hi lo : Nat) (w : Word) : field hi lo w < 2 ^ (hi + 1 - lo) :=
  Nat.mod_lt _ (Nat.two_pow_pos _)

/-- The five bits from `lo` up, as the slot they name. -/
def slotField (lo : Nat) (w : Word) : Fin 32 :=
  ⟨field (lo + 4) lo w, by simpa [show lo + 4 + 1 - lo = 5 by omega] using field_lt (lo + 4) lo w⟩

theorem wordOperands_eq (f : Format) (w : Word) :
    wordOperands f w = slotOperands f (slotField 7 w) (slotField 15 w) (slotField 20 w) (immField w) := by
  cases f <;> rfl

theorem immField_bounds (w : Word) : -2048 ≤ immField w ∧ immField w ≤ 2047 := by
  have := field_lt 31 20 w
  simp only [immField]
  split <;> omega

/-- The immediate field written back as 12 bits. -/
theorem immField_emod (w : Word) : (immField w % 2 ^ 12).toNat = field 31 20 w := by
  have := field_lt 31 20 w
  simp only [immField]
  split <;> omega

/-- `rs2` and funct7 are the low and the high bits of the immediate field. -/
theorem field_31_20 (w : Word) : field 31 20 w = field 24 20 w + field 31 25 w * 2 ^ 5 := by
  simp only [field]
  omega

section Packed

variable {row : OpcodeRow} {rd rs1 : Fin 32} {top : Nat} (hrow : row ∈ opcodeTable) (htop : top < 2 ^ 12)

include hrow htop

theorem toNat_packWord : (packWord row rd rs1 top).toNat =
    row.opcode + rd * 2 ^ 7 + row.funct3 * 2 ^ 12 + rs1 * 2 ^ 15 + top * 2 ^ 20 := by
  obtain ⟨hopcode, hfunct3, -⟩ := fixedBits_lt hrow
  rw [packWord, BitVec.toNat_ofNat, Nat.mod_eq_of_lt]
  omega

/-- The fields of a packed word are what was packed. -/
theorem field_packWord : field 6 0 (packWord row rd rs1 top) = row.opcode ∧
    slotField 7 (packWord row rd rs1 top) = rd ∧ field 14 12 (packWord row rd rs1 top) = row.funct3 ∧
    slotField 15 (packWord row rd rs1 top) = rs1 ∧ field 31 20 (packWord row rd rs1 top) = top := by
  obtain ⟨hopcode, hfunct3, -⟩ := fixedBits_lt hrow
  simp only [slotField, field, toNat_packWord hrow htop, Fin.ext_iff]
  omega

end Packed

/-- A word is the packing of its own fields. -/
theorem packWord_fields {row : OpcodeRow} {w : Word} (hopcode : field 6 0 w = row.opcode)
    (hfunct3 : field 14 12 w = row.funct3) :
    packWord row (slotField 7 w) (slotField 15 w) (field 31 20 w) = w := by
  apply BitVec.eq_of_toNat_eq
  rw [packWord, BitVec.toNat_ofNat, ← hopcode, ← hfunct3]
  simp only [slotField, field]
  omega

/-! ### The encoder -/

/-- Bits 31 to 20 of an instruction's word: funct7 and `rs2`, or the immediate (R84). -/
def topBits (row : OpcodeRow) (rs2 : Fin 32) (v : Int) : Nat :=
  match row.format with
  | .rType => rs2 + row.funct7.getD 0 * 2 ^ 5
  | .iType => (v % 2 ^ 12).toNat

theorem topBits_lt {row : OpcodeRow} (hrow : row ∈ opcodeTable) (rs2 : Fin 32) (v : Int) :
    topBits row rs2 v < 2 ^ 12 := by
  obtain ⟨-, -, hfunct7⟩ := fixedBits_lt hrow
  rw [topBits]
  split <;> omega

/-- The top bits of a row whose fixed bits a word has, read from the word, are the word's. -/
theorem topBits_fields {row : OpcodeRow} {w : Word} (hrow : row ∈ opcodeTable)
    (hfixed : row.hasFixedBits w = true) :
    topBits row (slotField 20 w) (immField w) = field 31 20 w := by
  rw [topBits]
  split
  · next hformat =>
    obtain ⟨f, hf⟩ := Option.isSome_iff_exists.mp ((isSome_funct7_iff hrow).mpr hformat)
    obtain ⟨-, -, hfunct7⟩ := (hasFixedBits_iff row w).mp hfixed
    rw [hf, Option.getD_some, ← hfunct7 f hf, field_31_20, slotField]
  · exact immField_emod w

theorem inSlots_fin (k : Fin 32) : inSlots k.val = true := by
  simp only [inSlots, Bool.and_eq_true, decide_eq_true_eq]
  omega

theorem inSlots_iff (n : Int) : inSlots n = true ↔ ∃ k : Fin 32, n = k.val := by
  constructor
  · intro h
    simp only [inSlots, Bool.and_eq_true, decide_eq_true_eq] at h
    obtain ⟨hnonneg, hle⟩ := h
    exact ⟨⟨n.toNat, by omega⟩, (Int.toNat_of_nonneg hnonneg).symm⟩
  · rintro ⟨k, rfl⟩
    exact inSlots_fin k

theorem wordOperandsFit_slotOperands {f : Format} {rd rs1 rs2 : Fin 32} {v : Int} (hlo : -2048 ≤ v)
    (hhi : v ≤ 2047) : wordOperandsFit f (slotOperands f rd rs1 rs2 v) = true := by
  cases f <;> simp [wordOperandsFit, slotOperands, inSlots_fin, hlo, hhi]

/-- The operands of an instruction that has a word: three slots, or two and a 12-bit immediate. -/
theorem slotOperands_of_wordOperandsFit {f : Format} {ops : List Operand}
    (h : wordOperandsFit f ops = true) :
    ∃ rd rs1 rs2 v, -2048 ≤ v ∧ v ≤ 2047 ∧ ops = slotOperands f rd rs1 rs2 v := by
  unfold wordOperandsFit at h
  split at h
  · next d a b =>
    simp only [Bool.and_eq_true, inSlots_iff] at h
    obtain ⟨⟨⟨rd, rfl⟩, rs1, rfl⟩, rs2, rfl⟩ := h
    exact ⟨rd, rs1, rs2, 0, by decide, by decide, rfl⟩
  · next d a v =>
    simp only [Bool.and_eq_true, inSlots_iff, decide_eq_true_eq] at h
    obtain ⟨⟨⟨⟨rd, rfl⟩, rs1, rfl⟩, hlo⟩, hhi⟩ := h
    exact ⟨rd, rs1, 0, v, hlo, hhi, rfl⟩
  · cases h

theorem encodeWord_of_slotOperands {i : Instr} {rd rs1 rs2 : Fin 32} {v : Int} (hlo : -2048 ≤ v)
    (hhi : v ≤ 2047) (hops : i.operands = slotOperands i.format rd rs1 rs2 v) :
    encodeWord i = some (packWord i.row rd rs1 (topBits i.row rs2 v)) := by
  have hword : i.hasWord = true := by rw [Instr.hasWord, hops, wordOperandsFit_slotOperands hlo hhi]
  rw [encodeWord, if_pos hword, hops, topBits, format_row]
  cases i.format <;> rfl

/-- A word with the top bits of an instruction has its funct7, its `rs2` and its immediate. -/
theorem fields_of_topBits {row : OpcodeRow} {w : Word} (hrow : row ∈ opcodeTable) {rs2 : Fin 32} {v : Int}
    (hlo : -2048 ≤ v) (hhi : v ≤ 2047) (htop : field 31 20 w = topBits row rs2 v) (rd rs1 : Fin 32) :
    (∀ f ∈ row.funct7, field 31 25 w = f) ∧
      slotOperands row.format rd rs1 (slotField 20 w) (immField w) = slotOperands row.format rd rs1 rs2 v := by
  rw [topBits] at htop
  cases hformat : row.format with
  | rType =>
    obtain ⟨f, hf⟩ := Option.isSome_iff_exists.mp ((isSome_funct7_iff hrow).mpr hformat)
    simp only [hformat, hf, Option.getD_some, field_31_20] at htop
    have hlow := field_lt 24 20 w
    have hrs2 : slotField 20 w = rs2 := Fin.ext (show field 24 20 w = rs2.val by omega)
    exact ⟨by simp only [hf, Option.mem_some_iff, forall_eq']; omega, by simp only [slotOperands, hrs2]⟩
  | iType =>
    have hnone : row.funct7 = none := by simpa [hformat] using isSome_funct7_iff hrow
    simp only [hformat] at htop
    have himm : immField w = v := by
      simp only [immField]
      split <;> omega
    exact ⟨by simp [hnone], by simp only [slotOperands, himm]⟩

/-- Settles O39: the fields of the packed word are the row's fixed bits and the operands. -/
theorem wordRoundTrip : Obligations.WordRoundTrip := by
  intro i h
  obtain ⟨rd, rs1, rs2, v, hlo, hhi, hops⟩ := slotOperands_of_wordOperandsFit h
  have hrow := row_mem_opcodeTable i
  obtain ⟨hopcode, hrd, hfunct3, hrs1, htop⟩ :=
    field_packWord (rd := rd) (rs1 := rs1) hrow (topBits_lt hrow rs2 v)
  obtain ⟨hfunct7, hfields⟩ := fields_of_topBits hrow hlo hhi htop rd rs1
  refine ⟨_, encodeWord_of_slotOperands hlo hhi hops, (decodeWord_eq_some_iff ..).mpr ⟨?_, ?_⟩⟩
  · exact (hasFixedBits_iff ..).mpr ⟨hopcode, hfunct3, hfunct7⟩
  · rw [wordOperands_eq, hrd, hrs1, hops, ← format_row, hfields]

/-- Settles O40: the operands are the word's fields, and packing a word's fields gives the word. -/
theorem decodedWordEncodesBack : Obligations.DecodedWordEncodesBack := by
  intro w i h
  obtain ⟨hfixed, hops⟩ := (decodeWord_eq_some_iff w i).mp h
  obtain ⟨hopcode, hfunct3, -⟩ := (hasFixedBits_iff i.row w).mp hfixed
  obtain ⟨hlo, hhi⟩ := immField_bounds w
  rw [wordOperands_eq] at hops
  rw [encodeWord_of_slotOperands hlo hhi hops, topBits_fields (row_mem_opcodeTable i) hfixed,
    packWord_fields hopcode hfunct3]

/-! ### Match and mask words -/

theorem field_and (hi lo : Nat) (w m : Word) : field hi lo (w &&& m) = field hi lo w &&& field hi lo m := by
  simp only [field, BitVec.toNat_and, Nat.and_div_two_pow, Nat.and_mod_two_pow]

/-- A field under a mask that has all of the field's bits. -/
theorem field_and_of_ones {hi lo : Nat} {m : Word} (hm : field hi lo m = 2 ^ (hi + 1 - lo) - 1) (w : Word) :
    field hi lo (w &&& m) = field hi lo w := by
  rw [field_and, hm, Nat.and_two_pow_sub_one_of_lt_two_pow (field_lt hi lo w)]

/-- A field under a mask that has none of the field's bits. -/
theorem field_and_of_zeros {hi lo : Nat} {m : Word} (hm : field hi lo m = 0) (w : Word) :
    field hi lo (w &&& m) = 0 := by
  rw [field_and, hm, Nat.and_zero]

/-- Words are equal when R84's fields of them are. -/
theorem eq_iff_fields (w w' : Word) : w = w' ↔
    (field 6 0 w = field 6 0 w' ∧ field 14 12 w = field 14 12 w' ∧ field 31 25 w = field 31 25 w') ∧
      field 11 7 w = field 11 7 w' ∧ field 19 15 w = field 19 15 w' ∧ field 24 20 w = field 24 20 w' := by
  rw [← BitVec.toNat_inj]
  simp only [field]
  omega

/-- The bits that a row fixes (R84's mask). -/
def fixedMask (row : OpcodeRow) : Word := if row.funct7.isSome then 0xFE00707F else 0x0000707F

/-- The word with a row's fixed bits and zeros elsewhere (R84's match). -/
def fixedWord (row : OpcodeRow) : Word := packWord row 0 0 (row.funct7.getD 0 * 2 ^ 5)

/-- The fields of a row's match word: the fixed bits, and zeros. -/
theorem field_fixedWord {row : OpcodeRow} (hrow : row ∈ opcodeTable) :
    (field 6 0 (fixedWord row) = row.opcode ∧ field 14 12 (fixedWord row) = row.funct3 ∧
        field 31 25 (fixedWord row) = row.funct7.getD 0) ∧
      field 11 7 (fixedWord row) = 0 ∧ field 19 15 (fixedWord row) = 0 ∧ field 24 20 (fixedWord row) = 0 := by
  obtain ⟨-, -, hfunct7⟩ := fixedBits_lt hrow
  obtain ⟨hopcode, hrd, hfunct3, hrs1, (htop : field 31 20 (fixedWord row) = _)⟩ :=
    field_packWord (rd := 0) (rs1 := 0) hrow (show row.funct7.getD 0 * 2 ^ 5 < 2 ^ 12 by omega)
  have hlow := field_lt 24 20 (fixedWord row)
  rw [field_31_20] at htop
  exact ⟨⟨hopcode, hfunct3, by omega⟩, congrArg Fin.val hrd, congrArg Fin.val hrs1, by omega⟩

/-- The fields of a word under a row's mask: the fields the row fixes, and zeros. -/
theorem field_and_fixedMask (row : OpcodeRow) (w : Word) :
    (field 6 0 (w &&& fixedMask row) = field 6 0 w ∧ field 14 12 (w &&& fixedMask row) = field 14 12 w ∧
        field 31 25 (w &&& fixedMask row) = if row.funct7.isSome then field 31 25 w else 0) ∧
      field 11 7 (w &&& fixedMask row) = 0 ∧ field 19 15 (w &&& fixedMask row) = 0 ∧
      field 24 20 (w &&& fixedMask row) = 0 := by
  rw [fixedMask]
  split
  · exact ⟨⟨field_and_of_ones rfl w, field_and_of_ones rfl w, field_and_of_ones rfl w⟩,
      field_and_of_zeros rfl w, field_and_of_zeros rfl w, field_and_of_zeros rfl w⟩
  · exact ⟨⟨field_and_of_ones rfl w, field_and_of_ones rfl w, field_and_of_zeros rfl w⟩,
      field_and_of_zeros rfl w, field_and_of_zeros rfl w, field_and_of_zeros rfl w⟩

theorem hasFixedBits_iff_masked {row : OpcodeRow} (hrow : row ∈ opcodeTable) (w : Word) :
    row.hasFixedBits w = true ↔ w &&& fixedMask row = fixedWord row := by
  rw [eq_iff_fields, hasFixedBits_iff]
  simp only [field_fixedWord hrow, field_and_fixedMask row w, and_self, and_true]
  cases row.funct7 <;> simp

/-- Settles O41: the mask keeps the fixed fields and clears the others. -/
theorem rowsAgreeWithMatchAndMask : Obligations.RowsAgreeWithMatchAndMask := by
  intro p hp
  have hrow : ∃ row ∈ opcodeTable, row.mnemonic = p.1 ∧ fixedMask row = p.2.2 ∧ fixedWord row = p.2.1 := by
    revert p
    decide
  obtain ⟨row, hmem, hmnemonic, hmask, hmatch⟩ := hrow
  exact ⟨row, hmem, hmnemonic, fun w => hmask ▸ hmatch ▸ hasFixedBits_iff_masked hmem w⟩

end Sys2Proof.Proofs
end

section
/-! SUPPORT. The engine on a line with an unknown mnemonic (R77) and on a decoded bundle (R83). -/

namespace Sys2Proof.Proofs

open Sys2Proof.Machine Sys2Proof.Safety

/-- R83's well-formedness speaks of the immediates alone. -/
theorem wellFormed_iff (r : ImmRange) (b : Instruction) :
    b.wellFormed r = true ↔ ∀ v, .immediate v ∈ b.operands → r.contains v = true := by
  rw [Instruction.wellFormed, List.all_eq_true]
  constructor
  · exact fun h v hv => h _ hv
  · intro h o ho
    cases o with
    | register _ => rfl
    | immediate v => exact h v ho

section OneRequest

variable {s : State} {q : Request} {rest : List Request}

theorem endTransaction_takeRequest (h : s.requests = q :: rest) (outcome : Response × RegFile) :
    endTransaction (takeRequest s) outcome =
      { x := outcome.2, requests := rest, response := some outcome.1, immRange := s.immRange } := by
  rw [endTransaction, takeRequest_requests, h, List.tail_cons, takeRequest_immRange]

theorem step_of_illFormed_bundle {b : Instruction} (h : s.requests = .bundle b :: rest)
    (hwf : ¬ b.wellFormed s.immRange = true) : step s = .refused .bundleNotWellFormed :=
  step_refuse s _ (by rw [fetch_of_requests h, fetchRequest, fetchBundle, if_neg hwf])

end OneRequest

/-- The engine ends a bundle whose opcode is none of the twelve with `UnknownOpcode` (R77, R101). -/
theorem transactBundle_of_unknown {b : Instruction}
    (h : b.opcode ∉ implementedMnemonics ++ unsupportedMnemonics) (X : RegFile) :
    transactBundle b X = (.err (.exec .unknownOpcode), X) := by
  simp only [transactBundle, execute, semantics_of_unknown h]

/-- Settles O17: a step on a line is the transaction of R100, whose step 1 finds no row. -/
theorem unknownMnemonicsRejected : Obligations.UnknownMnemonicsRejected := by
  intro s l rest b h hparse hunknown
  have htransact : transact s.immRange l s.x = (.err (.exec .unknownOpcode), s.x) := by
    simp only [transact, hparse, transactBundle_of_unknown hunknown]
  rw [step_of_line h, htransact, endTransaction_takeRequest h]

/-- Settles O23: `fetch` refuses an ill-formed bundle, and a step on any other is the engine's transaction. -/
theorem bundleStepIsExecute : Obligations.BundleStepIsExecute := by
  refine fun s b rest h => ⟨fun ⟨v, hv, hout⟩ => ?_, fun hin => ?_⟩
  · refine step_of_illFormed_bundle h fun hwf => ?_
    simp [(wellFormed_iff s.immRange b).mp hwf v hv] at hout
  · rw [step_of_wellFormed_bundle h ((wellFormed_iff s.immRange b).mpr hin), endTransaction_takeRequest h]

end Sys2Proof.Proofs
end

section
/-! SUPPORT. The tokens of a line: register tokens, immediate tokens and the three operand positions
(30_encoding.md R68 to R71), and the literal that an immediate contributes (R75). -/

namespace Sys2Proof.Proofs

open Sys2Proof.Machine Sys2Proof.Safety

theorem contains_iff (r : ImmRange) (v : Int) : r.contains v = true ↔ r.lo ≤ v ∧ v ≤ r.hi := by
  simp [ImmRange.contains]

/-- Settles O51: a signed 32-bit integer is the signed reading of its 32-bit vector. -/
theorem immediateIsItsOwnValue : Obligations.ImmediateIsItsOwnValue := by
  intro r s v hfits hv
  obtain ⟨hlo, hhi⟩ := (contains_iff r v).mp hv
  simp only [ImmRange.fits32, Bool.and_eq_true, decide_eq_true_eq] at hfits
  rw [sourceValue, bv32, signed, BitVec.toInt_ofInt, Int.bmod_eq_of_le] <;> omega

/-! ### Digit strings (R12) -/

theorem digitString_decText (n : Nat) : DigitString (decText n) :=
  ⟨Nat.toDigits_ne_nil, fun c hc => (isDigit_iff c).mp (isDigit_of_mem_decText hc)⟩

/-- Leading zeros keep a text a digit string. -/
theorem digitString_zeros_append {d : Text} (h : DigitString d) (k : Nat) :
    DigitString (List.replicate k '0' ++ d) := by
  obtain ⟨hne, hdigits⟩ := h
  refine ⟨by simp [hne], fun c hc => ?_⟩
  rcases List.mem_append.mp hc with hzero | hd
  · rw [List.eq_of_mem_replicate hzero]
    decide
  · exact hdigits c hd

/-- Leading zeros do not change the number (R69, R71). -/
theorem dec_zeros_append (k : Nat) (d : Text) : dec (List.replicate k '0' ++ d) = dec d := by
  rw [dec, Nat.ofDigitChars_append, Nat.ofDigitChars_replicate_zero, Nat.mul_zero, dec]

theorem dec_zeros_decText (n k : Nat) : dec (List.replicate k '0' ++ decText n) = n :=
  (dec_zeros_append k _).trans (dec_decText n)

/-- A digit string starts with a digit. -/
theorem head_ne_of_digitString {c : Char} {d : Text} (h : DigitString (c :: d)) :
    c ≠ '+' ∧ c ≠ '-' ∧ c ≠ 'x' := by
  have hc := h.2 c List.mem_cons_self
  refine ⟨?_, ?_, ?_⟩ <;> rintro rfl <;> revert hc <;> decide

/-! ### Register tokens (R69) -/

theorem regTok_of_digitString {d : Text} (h : DigitString d) : regTok ('x' :: d) = .ok (.register (dec d)) := by
  rw [regTok, if_pos ((isDigits_iff d).mpr h)]

theorem regTok_of_not_registerToken {t : Text} (h : ¬ RegisterToken t) :
    regTok t = .error .badRegisterToken := by
  unfold regTok
  split
  · next d =>
    rw [if_neg fun hd => h ⟨d, rfl, (isDigits_iff d).mp hd⟩]
  · rfl

/-- Settles O48: `regTok` on a register token and on any other, with leading zeros dropped by `dec`. -/
theorem registerTokenRule : Obligations.RegisterTokenRule := by
  refine ⟨fun n k => ?_, fun d => regTok_of_digitString, fun t h => ?_⟩
  · rw [regTok_of_digitString (digitString_zeros_append (digitString_decText n) k), dec_zeros_decText]
  · exact regTok_of_not_registerToken fun ⟨d, ht, hd⟩ => h d ht hd

/-! ### Immediate tokens (R71) -/

theorem signedDecimal_plus {d : Text} (h : DigitString d) : signedDecimal ('+' :: d) = some (dec d : Int) := by
  rw [signedDecimal, if_pos ((isDigits_iff d).mpr h)]

theorem signedDecimal_minus {d : Text} (h : DigitString d) : signedDecimal ('-' :: d) = some (-(dec d : Int)) := by
  rw [signedDecimal, if_pos ((isDigits_iff d).mpr h)]

theorem signedDecimal_of_digitString {d : Text} (h : DigitString d) : signedDecimal d = some (dec d : Int) := by
  unfold signedDecimal
  split
  · exact absurd rfl (head_ne_of_digitString h).1
  · exact absurd rfl (head_ne_of_digitString h).2.1
  · rw [if_pos ((isDigits_iff d).mpr h)]

/-- A token that is no digit string, with or without a sign, denotes no integer. -/
theorem signedDecimal_eq_none {t : Text} (h : ¬ DigitString t)
    (hsign : ∀ d, (t = '+' :: d ∨ t = '-' :: d) → ¬ DigitString d) : signedDecimal t = none := by
  unfold signedDecimal
  split
  · exact if_neg fun hd => hsign _ (.inl rfl) ((isDigits_iff _).mp hd)
  · exact if_neg fun hd => hsign _ (.inr rfl) ((isDigits_iff _).mp hd)
  · exact if_neg fun hd => h ((isDigits_iff _).mp hd)

theorem immTok_of_some {t : Text} {v : Int} (h : signedDecimal t = some v) (r : ImmRange) :
    immTok r t = if r.lo ≤ v ∧ v ≤ r.hi then .ok (.immediate v) else .error .badImmediate := by
  simp only [immTok, h, contains_iff]

theorem immTok_of_none {t : Text} (h : signedDecimal t = none) (r : ImmRange) :
    immTok r t = .error .badImmediate := by
  simp only [immTok, h]

/-- Settles O49: the integer a token denotes, by its sign, and then whether it lies in the range. -/
theorem immediateTokenRule : Obligations.ImmediateTokenRule := by
  refine ⟨dec_zeros_decText, fun r d h => ⟨?_, ?_, ?_⟩, fun r t h hsign => ?_⟩
  · exact immTok_of_some (signedDecimal_of_digitString h) r
  · rw [immTok_of_some (signedDecimal_plus h), immTok_of_some (signedDecimal_of_digitString h)]
  · exact immTok_of_some (signedDecimal_minus h) r
  · exact immTok_of_none (signedDecimal_eq_none h hsign) r

/-! ### The three operand positions (R68, R70) -/

/-- What a register position can give: the register of a register token, or `BadRegisterToken`. -/
theorem regTok_cases (t : Text) :
    (RegisterToken t ∧ ∃ n : Nat, regTok t = .ok (.register n)) ∨
      (¬ RegisterToken t ∧ regTok t = .error .badRegisterToken) := by
  by_cases h : RegisterToken t
  · obtain ⟨d, rfl, hd⟩ := h
    exact .inl ⟨⟨d, rfl, hd⟩, dec d, regTok_of_digitString hd⟩
  · exact .inr ⟨h, regTok_of_not_registerToken h⟩

/-- What an immediate token can give: an immediate in the range, or `BadImmediate`. -/
theorem immTok_cases (r : ImmRange) (t : Text) :
    (∃ v, r.contains v = true ∧ immTok r t = .ok (.immediate v)) ∨ immTok r t = .error .badImmediate := by
  cases h : signedDecimal t with
  | none => exact .inr (immTok_of_none h r)
  | some v =>
    rw [immTok_of_some h]
    by_cases hv : r.lo ≤ v ∧ v ≤ r.hi
    · exact .inl ⟨v, (contains_iff r v).mpr hv, if_pos hv⟩
    · exact .inr (if_neg hv)

theorem thirdTok_of_head_eq {t : Text} (h : t.head? = some 'x') (r : ImmRange) : thirdTok r t = regTok t :=
  if_pos h

theorem thirdTok_of_head_ne {t : Text} (h : t.head? ≠ some 'x') (r : ImmRange) : thirdTok r t = immTok r t :=
  if_neg h

theorem readOperands_of_not_registerToken {t1 t2 : Text} (h : ¬ RegisterToken t1 ∨ ¬ RegisterToken t2)
    (r : ImmRange) (t3 : Text) : readOperands r [t1, t2, t3] = .error .badRegisterToken := by
  rcases regTok_cases t1 with ⟨h1, n, hn⟩ | ⟨-, hbad⟩
  · have h2 : ¬ RegisterToken t2 := h.resolve_left (not_not_intro h1)
    simp only [readOperands, hn, regTok_of_not_registerToken h2]
    rfl
  · simp only [readOperands, hbad]
    rfl

/-- Two register tokens leave the outcome to token 3. -/
theorem readOperands_of_digitStrings {d1 d2 : Text} (h1 : DigitString d1) (h2 : DigitString d2)
    (r : ImmRange) (t3 : Text) : readOperands r ['x' :: d1, 'x' :: d2, t3] =
      (thirdTok r t3).map fun o => [.register (dec d1), .register (dec d2), o] := by
  simp only [readOperands, regTok_of_digitString h1, regTok_of_digitString h2]
  cases thirdTok r t3 <;> rfl

/-- Settles O55: positions 1 and 2 are read before position 3, which its first character decides. -/
theorem operandPositionsReadInOrder : Obligations.OperandPositionsReadInOrder := by
  refine ⟨fun r t1 t2 t3 h => readOperands_of_not_registerToken h r t3, fun r d1 d2 d3 h1 h2 h3 => ?_,
    fun r d1 d2 d3 h1 h2 h3 => ?_, fun r d1 d2 t3 h1 h2 hhead => ⟨fun o ho => ?_, fun e he => ?_⟩,
    fun r t => ⟨fun h => thirdTok_of_head_eq h r, fun h => thirdTok_of_head_ne h r⟩⟩
  · rw [readOperands_of_digitStrings h1 h2, thirdTok_of_head_eq rfl, regTok_of_digitString h3, Except.map]
  · have hbad : ¬ RegisterToken ('x' :: d3) := fun ⟨d, heq, hd⟩ => h3 (List.cons_injective heq ▸ hd)
    rw [readOperands_of_digitStrings h1 h2, thirdTok_of_head_eq rfl, regTok_of_not_registerToken hbad,
      Except.map]
  · rw [readOperands_of_digitStrings h1 h2, thirdTok_of_head_ne hhead, ho, Except.map]
  · have hbad : e = .badImmediate := by
      rcases immTok_cases r t3 with ⟨v, -, hok⟩ | herror
      · cases hok.symm.trans he
      · exact Except.error.inj (he.symm.trans herror)
    rw [readOperands_of_digitStrings h1 h2, thirdTok_of_head_ne hhead, he, Except.map, hbad]
    exact ⟨rfl, rfl⟩

end Sys2Proof.Proofs
end

section
/-! SUPPORT. Texts: trimming, lower-casing and splitting, and the operand tokens they give
(00_scope.md R12, 30_encoding.md R62 to R66). -/

namespace Sys2Proof.Proofs

open Sys2Proof.Machine Sys2Proof.Safety

/-! ### Blank texts, solid texts, tokens -/

theorem solid_iff (t : Text) : Solid t ↔ (t.isEmpty || t.any isSpace) = false := by
  simp [Solid]

theorem blank_nil : Blank [] := by simp [Blank]

theorem blank_space : Blank [' '] := by simp [Blank, isSpace]

theorem blank_append {g g' : Text} (h : Blank g) (h' : Blank g') : Blank (g ++ g') :=
  fun c hc => (List.mem_append.mp hc).elim (h c) (h' c)

theorem blank_lower {g : Text} (h : Blank g) : Blank (lower g) := by
  simpa [Blank, lower, isSpace_lowerChar] using h

theorem lower_eq_self {t : Text} (h : ∀ c ∈ t, lowerChar c = c) : lower t = t :=
  (List.map_congr_left h).trans (List.map_id t)

theorem lower_eq_nil_iff (t : Text) : lower t = [] ↔ t = [] := List.map_eq_nil_iff

theorem lower_ne_nil {t : Text} (h : t ≠ []) : lower t ≠ [] := fun hnil => h ((lower_eq_nil_iff t).mp hnil)

theorem solid_lower_iff (t : Text) : Solid (lower t) ↔ Solid t := by
  simp [Solid, lower, isSpace_lowerChar]

theorem not_solid_of_bad {t : Text} (h : t = [] ∨ ∃ c ∈ t, isSpace c = true) : ¬ Solid t := by
  rintro ⟨hne, hsolid⟩
  rcases h with hnil | ⟨c, hc, hspace⟩
  · exact hne hnil
  · simp [hsolid c hc] at hspace

theorem lowerChar_eq_comma_iff (c : Char) : lowerChar c = ',' ↔ c = ',' := by
  rw [← Char.toNat_inj, ← Char.toNat_inj, toNat_lowerChar]
  have : ','.toNat = 44 := rfl
  split <;> omega

theorem comma_mem_lower_iff (t : Text) : ',' ∈ lower t ↔ ',' ∈ t := by
  simp [lower, lowerChar_eq_comma_iff]

theorem token_lower {t : Text} (h : Token t) : Token (lower t) :=
  ⟨(solid_lower_iff t).mpr h.1, fun hmem => h.2 ((comma_mem_lower_iff t).mp hmem)⟩

theorem comma_not_mem_of_blank {g : Text} (h : Blank g) : ',' ∉ g :=
  fun hmem => absurd (h ',' hmem) (by decide)

/-! ### Trimming -/

/-- Trimming takes a blank text off each end. -/
theorem exists_eq_blank_trim_blank (s : Text) : ∃ b e, Blank b ∧ Blank e ∧ s = b ++ trim s ++ e := by
  refine ⟨s.takeWhile isSpace, (s.dropWhile isSpace).rtakeWhile isSpace, fun c => List.mem_takeWhile_imp,
    fun c => List.mem_rtakeWhile_imp, ?_⟩
  have hdrop : trim s ++ (s.dropWhile isSpace).rtakeWhile isSpace = s.dropWhile isSpace :=
    List.rdropWhile_append_rtakeWhile ..
  rw [List.append_assoc, hdrop, List.takeWhile_append_dropWhile]

theorem trim_eq_nil_iff (s : Text) : trim s = [] ↔ Blank s := by
  constructor
  · intro h
    obtain ⟨b, e, hb, he, hs⟩ := exists_eq_blank_trim_blank s
    rw [hs, h, List.append_nil]
    exact blank_append hb he
  · intro h
    simpa using trim_blank_append s [] [] h (by simp)

theorem isSpace_of_head?_trim {s : Text} {c : Char} (h : (trim s).head? = some c) : isSpace c = false := by
  obtain ⟨e, he⟩ : trim s <+: s.dropWhile isSpace := List.rdropWhile_prefix ..
  have hhead : (s.dropWhile isSpace).head? = some c := by rw [← he, List.head?_append, h, Option.some_or]
  simpa [hhead] using List.head?_dropWhile_not isSpace s

theorem isSpace_of_getLast?_trim {s : Text} {c : Char} (h : (trim s).getLast? = some c) :
    isSpace c = false := by
  obtain ⟨hne, rfl⟩ := List.mem_getLast?_eq_getLast h
  exact Bool.eq_false_of_not_eq_true (List.rdropWhile_last_not isSpace (s.dropWhile isSpace) hne)

theorem trim_of_solid {t : Text} (h : Solid t) : trim t = t := by
  obtain ⟨hne, hsolid⟩ := h
  cases t with
  | nil => exact absurd rfl hne
  | cons c cs =>
    exact trim_eq_self c cs (hsolid c List.mem_cons_self) fun d hd => hsolid d (List.mem_of_getLast? hd)

/-- A token is what is left of it when whitespace around it is trimmed (R65). -/
theorem trim_blank_solid_blank {b t e : Text} (hb : Blank b) (ht : Solid t) (he : Blank e) :
    trim (b ++ t ++ e) = t :=
  (trim_blank_append b t e hb he).trans (trim_of_solid ht)

theorem trim_trim (s : Text) : trim (trim s) = trim s := by
  obtain ⟨b, e, hb, he, hs⟩ := exists_eq_blank_trim_blank s
  conv_rhs => rw [hs, trim_blank_append b _ e hb he]

/-- A text that starts with a solid text and ends with a trimmed one has nothing to trim. -/
theorem trim_solid_append {t s : Text} (ht : Solid t) (hs : trim s ≠ []) (m : Text) :
    trim (t ++ m ++ trim s) = t ++ m ++ trim s := by
  obtain ⟨hne, hsolid⟩ := ht
  cases t with
  | nil => exact absurd rfl hne
  | cons c cs =>
    refine trim_eq_self c _ (hsolid c List.mem_cons_self) fun d hd => isSpace_of_getLast?_trim (s := s) ?_
    rwa [← List.getLast?_append_of_ne_nil (c :: cs ++ m) hs]

theorem comma_mem_trim_iff (s : Text) : ',' ∈ trim s ↔ ',' ∈ s := by
  obtain ⟨b, e, hb, he, hs⟩ := exists_eq_blank_trim_blank s
  conv_rhs => rw [hs]
  simp [comma_not_mem_of_blank hb, comma_not_mem_of_blank he]

/-! ### Splitting -/

theorem splitAtEvery_eq_splitOnP (p : Char → Bool) (s : Text) : splitAtEvery p s = s.splitOnP p := by
  induction s with
  | nil => rw [splitAtEvery, List.splitOnP_nil]
  | cons c cs ih =>
    rw [splitAtEvery, List.splitOnP_cons_eq_if_modifyHead, ih]
    split
    · rfl
    · cases h : cs.splitOnP p with
      | nil => exact absurd h (List.splitOnP_ne_nil p cs)
      | cons t ts => rfl

theorem joinTokens_cons_cons (sep t u : Text) (us : List Text) :
    joinTokens sep (t :: u :: us) = t ++ sep ++ joinTokens sep (u :: us) := rfl

theorem joinTokens_eq_intercalate (sep : Text) (ts : List Text) : joinTokens sep ts = sep.intercalate ts := by
  induction ts with
  | nil => rfl
  | cons t ts ih =>
    cases ts with
    | nil => rw [joinTokens, List.intercalate_singleton]
    | cons u us => rw [joinTokens_cons_cons, ih, List.intercalate_cons_cons]

theorem lower_joinTokens (sep : Text) (ts : List Text) :
    lower (joinTokens sep ts) = joinTokens (lower sep) (ts.map lower) := by
  induction ts with
  | nil => rfl
  | cons t ts ih =>
    cases ts with
    | nil => rfl
    | cons u us =>
      rw [joinTokens_cons_cons, lower_append, lower_append, ih]
      rfl

/-- Splitting at commas takes a comma-joined list of pieces apart. -/
theorem splitAtEvery_joinTokens {pieces : List Text} (hne : pieces ≠ []) (h : ∀ p ∈ pieces, ',' ∉ p) :
    splitAtEvery (fun c => c == ',') (joinTokens [','] pieces) = pieces := by
  rw [splitAtEvery_eq_splitOnP, joinTokens_eq_intercalate, ← List.splitOn_eq_splitOnP,
    List.splitOn_intercalate ',' h hne]

theorem map_trim_modifyHead_cons {c : Char} (hc : isSpace c = true) (ts : List Text) :
    (ts.modifyHead (List.cons c)).map trim = ts.map trim := by
  cases ts with
  | nil => rfl
  | cons t ts =>
    have htrim : trim (c :: t) = trim t := by
      simpa using trim_blank_append [c] t [] (by simpa using hc) (by simp)
    rw [List.modifyHead_cons, List.map_cons, htrim, List.map_cons]

/-- Whitespace before a text goes to the front of its first piece, and is trimmed there. -/
theorem map_trim_splitAtEvery_blank_append {b : Text} (hb : Blank b) (s : Text) :
    (splitAtEvery (fun c => c == ',') (b ++ s)).map trim = (splitAtEvery (fun c => c == ',') s).map trim := by
  induction b with
  | nil => rfl
  | cons c cs ih =>
    have hc : isSpace c = true := hb c List.mem_cons_self
    have hcs : Blank cs := fun d hd => hb d (List.mem_cons_of_mem c hd)
    have hcomma : ¬ (c == ',') = true := fun h => comma_not_mem_of_blank hb (by simp [beq_iff_eq.mp h])
    simp only [splitAtEvery_eq_splitOnP] at ih ⊢
    rw [List.cons_append, List.splitOnP_cons_eq_if_modifyHead, if_neg hcomma,
      map_trim_modifyHead_cons hc, ih hcs]

/-- A text without a separator after a text goes to the end of its last piece. -/
theorem splitAtEvery_append_of_none {p : Char → Bool} (s : Text) {e : Text} (he : ∀ c ∈ e, p c = false) :
    ∃ init last, splitAtEvery p s = init ++ [last] ∧ splitAtEvery p (s ++ e) = init ++ [last ++ e] := by
  induction s with
  | nil => exact ⟨[], [], rfl, splitAtEvery_of_none p e he⟩
  | cons c cs ih =>
    obtain ⟨init, last, hs, hse⟩ := ih
    rw [List.cons_append, splitAtEvery, splitAtEvery, hs, hse]
    split
    · exact ⟨[] :: init, last, rfl, rfl⟩
    · cases init with
      | nil => exact ⟨[], c :: last, rfl, rfl⟩
      | cons t ts => exact ⟨(c :: t) :: ts, last, rfl, rfl⟩

/-- Trimming a text makes no difference to its trimmed comma pieces. -/
theorem map_trim_splitAtEvery_trim (s : Text) :
    (splitAtEvery (fun c => c == ',') (trim s)).map trim = (splitAtEvery (fun c => c == ',') s).map trim := by
  obtain ⟨b, e, hb, he, hs⟩ := exists_eq_blank_trim_blank s
  have hcomma : ∀ c ∈ e, (c == ',') = false := fun c hc =>
    beq_false_of_ne fun heq => comma_not_mem_of_blank he (heq ▸ hc)
  obtain ⟨init, last, hinit, happend⟩ := splitAtEvery_append_of_none (trim s) hcomma
  have hlast : trim (last ++ e) = trim last := trim_blank_append [] last e (by simp) he
  conv_rhs => rw [hs, List.append_assoc, map_trim_splitAtEvery_blank_append hb, happend]
  simp [hinit, hlast]

/-! ### The comma form (R65) -/

theorem operandTokens_of_comma {s : Text} (h : ',' ∈ s) : operandTokens s = commaTokens s := by
  have hany : s.any (fun c => c == ',') = true := by simpa using h
  have hne : ¬ s.isEmpty = true := by
    rw [List.isEmpty_iff]
    exact List.ne_nil_of_mem h
  rw [operandTokens, if_neg hne, if_pos hany]

/-- The tokens of comma-joined pieces: the trimmed pieces, or `BadArity` for a bad one. -/
theorem operandTokens_trim_joinTokens_comma {pieces : List Text} (hlen : 2 ≤ pieces.length)
    (h : ∀ p ∈ pieces, ',' ∉ p) :
    operandTokens (trim (joinTokens [','] pieces)) =
      if (pieces.map trim).any (fun t => t.isEmpty || t.any isSpace) then .error .badArity
      else .ok (pieces.map trim) := by
  have hcomma : ',' ∈ joinTokens [','] pieces := by
    match pieces, hlen with
    | p :: q :: ps, _ => simp [joinTokens]
  have hne : pieces ≠ [] := by
    rintro rfl
    cases hlen
  simp only [operandTokens_of_comma ((comma_mem_trim_iff _).mpr hcomma), commaTokens, map_trim_splitAtEvery_trim,
    splitAtEvery_joinTokens hne h]

theorem operandTokens_of_solid_pieces {pieces : List Text} (hlen : 2 ≤ pieces.length)
    (h : ∀ p ∈ pieces, ',' ∉ p) (hsolid : ∀ p ∈ pieces, Solid (trim p)) :
    operandTokens (trim (joinTokens [','] pieces)) = .ok (pieces.map trim) := by
  rw [operandTokens_trim_joinTokens_comma hlen h, if_neg]
  rw [List.any_map, List.any_eq_true]
  rintro ⟨p, hp, hbad⟩
  simp [(solid_iff _).mp (hsolid p hp)] at hbad

theorem operandTokens_of_bad_piece {pieces : List Text} (hlen : 2 ≤ pieces.length)
    (h : ∀ p ∈ pieces, ',' ∉ p) (hbad : ∃ p ∈ pieces, ¬ Solid (trim p)) :
    operandTokens (trim (joinTokens [','] pieces)) = .error .badArity := by
  obtain ⟨p, hp, hnot⟩ := hbad
  rw [operandTokens_trim_joinTokens_comma hlen h, if_pos]
  rw [List.any_map, List.any_eq_true]
  exact ⟨p, hp, Bool.eq_true_of_not_eq_false fun hok => hnot ((solid_iff _).mpr hok)⟩

/-! ### The space form (R66) -/

theorem operandTokens_of_no_comma {s : Text} (h : ',' ∉ s) : operandTokens s = .ok (spaceTokens s) := by
  have hany : ¬ s.any (fun c => c == ',') = true := by simpa using h
  rw [operandTokens, if_neg hany]
  split
  · next hempty => rw [List.isEmpty_iff.mp hempty]; rfl
  · rfl

/-- A whitespace character parts the tokens before it from those after it. -/
theorem spaceTokens_append_space (s : Text) {c : Char} (hc : isSpace c = true) (t : Text) :
    spaceTokens (s ++ c :: t) = spaceTokens s ++ spaceTokens t := by
  simp only [spaceTokens, splitAtEvery_eq_splitOnP, List.splitOnP_append_cons s t hc, List.filter_append]

theorem spaceTokens_blank_append {b : Text} (hb : Blank b) (s : Text) :
    spaceTokens (b ++ s) = spaceTokens s := by
  induction b with
  | nil => rfl
  | cons c cs ih =>
    have hcs : Blank cs := fun d hd => hb d (List.mem_cons_of_mem c hd)
    exact (spaceTokens_append_space [] (hb c List.mem_cons_self) (cs ++ s)).trans (ih hcs)

theorem spaceTokens_append_blank_append (s : Text) {g : Text} (hg : Blank g) (hne : g ≠ []) (t : Text) :
    spaceTokens (s ++ g ++ t) = spaceTokens s ++ spaceTokens t := by
  cases g with
  | nil => exact absurd rfl hne
  | cons c cs =>
    have hcs : Blank cs := fun d hd => hg d (List.mem_cons_of_mem c hd)
    rw [List.append_assoc, List.cons_append, spaceTokens_append_space s (hg c List.mem_cons_self),
      spaceTokens_blank_append hcs]

theorem spaceTokens_nil : spaceTokens [] = [] := rfl

theorem spaceTokens_append_blank (s : Text) {e : Text} (he : Blank e) : spaceTokens (s ++ e) = spaceTokens s := by
  by_cases hne : e = []
  · rw [hne, List.append_nil]
  · rw [← List.append_nil (s ++ e), spaceTokens_append_blank_append s he hne, spaceTokens_nil, List.append_nil]

theorem spaceTokens_trim (s : Text) : spaceTokens (trim s) = spaceTokens s := by
  obtain ⟨b, e, hb, he, hs⟩ := exists_eq_blank_trim_blank s
  conv_rhs => rw [hs, spaceTokens_append_blank _ he, spaceTokens_blank_append hb]

theorem spaceTokens_of_solid {t : Text} (h : Solid t) : spaceTokens t = [t] := by
  rw [spaceTokens, splitAtEvery_of_none _ _ h.2]
  simpa using h.1

end Sys2Proof.Proofs
end

section
/-! SUPPORT. The Instruction Parser (30_encoding.md R62 to R73): what a line parses to, from its opcode
token and its operand text. -/

namespace Sys2Proof.Proofs

open Sys2Proof.Machine Sys2Proof.Safety

/-! ### A line's opcode token and operand text (R62, R63) -/

theorem normalise_eq (l : Text) : normalise l = trim (lower l) := (trim_lower l).symm

theorem normalise_eq_nil_iff (l : Text) : normalise l = [] ↔ Blank l := by
  rw [normalise, lower_eq_nil_iff, trim_eq_nil_iff]

theorem opcodeToken_of_solid {op : Text} (h : Solid op) : opcodeToken op = op :=
  List.takeWhile_eq_self_iff.mpr fun c hc => by simp [h.2 c hc]

theorem operandText_of_solid {op : Text} (h : Solid op) : operandText op = [] := by
  have hdrop : op.dropWhile (fun c => !isSpace c) = [] :=
    List.dropWhile_eq_nil_iff.mpr fun c hc => by simp [h.2 c hc]
  rw [operandText, hdrop, trim_nil]

section OpcodeToken

variable {op g : Text} (hop : Solid op) (hg : Blank g) (hne : g ≠ [])

include hop hg hne

theorem opcodeToken_append (t : Text) : opcodeToken (op ++ g ++ t) = op := by
  cases g with
  | nil => exact absurd rfl hne
  | cons c cs =>
    have hc : isSpace c = true := hg c List.mem_cons_self
    rw [opcodeToken, List.append_assoc, List.takeWhile_append_of_pos fun d hd => by simp [hop.2 d hd]]
    simp [hc]

theorem operandText_append (t : Text) : operandText (op ++ g ++ t) = trim t := by
  cases g with
  | nil => exact absurd rfl hne
  | cons c cs =>
    have hc : isSpace c = true := hg c List.mem_cons_self
    have hdrop : (op ++ (c :: cs) ++ t).dropWhile (fun c => !isSpace c) = (c :: cs) ++ t := by
      rw [List.append_assoc, List.dropWhile_append_of_pos fun d hd => by simp [hop.2 d hd]]
      simp [hc]
    rw [operandText, hdrop]
    simpa using trim_blank_append (c :: cs) t [] hg (by simp)

/-- Trimming a line leaves its opcode token, and trims its operand text. -/
theorem opcodeToken_operandText_trim (rest : Text) :
    opcodeToken (trim (op ++ g ++ rest)) = op ∧ operandText (trim (op ++ g ++ rest)) = trim rest := by
  obtain ⟨b, e, hb, he, hrest⟩ := exists_eq_blank_trim_blank rest
  by_cases hblank : trim rest = []
  · have hline : op ++ g ++ rest = [] ++ op ++ (g ++ rest) := by simp
    have hgrest : Blank (g ++ rest) := blank_append hg ((trim_eq_nil_iff rest).mp hblank)
    rw [hline, trim_blank_solid_blank blank_nil hop hgrest, opcodeToken_of_solid hop,
      operandText_of_solid hop, hblank]
    exact ⟨rfl, rfl⟩
  · have hline : op ++ g ++ rest = [] ++ (op ++ (g ++ b) ++ trim rest) ++ e := by
      conv_lhs => rw [hrest]
      simp
    have hgb : Blank (g ++ b) := blank_append hg hb
    have hgbne : g ++ b ≠ [] := by simp [hne]
    rw [hline, trim_blank_append _ _ _ blank_nil he, trim_solid_append hop hblank,
      opcodeToken_append hop hgb hgbne, operandText_append hop hgb hgbne, trim_trim]
    exact ⟨rfl, rfl⟩

end OpcodeToken

/-! ### The parser on the operand tokens (R67, R72) -/

section Parse

variable {l : Text} (hne : normalise l ≠ [])

include hne

theorem parse_of_operandTokens {toks : List Text} (h : operandTokens (operandText (normalise l)) = .ok toks)
    (r : ImmRange) : parse r l =
      (readOperands r toks).map fun ops => { opcode := opcodeToken (normalise l), operands := ops } := by
  have hempty : ¬ (normalise l).isEmpty = true := by simpa using hne
  simp only [parse, if_neg hempty, h, bind, Except.bind]
  cases readOperands r toks <;> rfl

theorem parse_of_operandTokens_error {e : ParseError}
    (h : operandTokens (operandText (normalise l)) = .error e) (r : ImmRange) : parse r l = .error e := by
  have hempty : ¬ (normalise l).isEmpty = true := by simpa using hne
  simp only [parse, if_neg hempty, h]
  rfl

end Parse

theorem parse_of_blank {l : Text} (h : Blank l) (r : ImmRange) : parse r l = .error .empty := by
  have hempty : (normalise l).isEmpty = true := by simpa using (normalise_eq_nil_iff l).mpr h
  simp only [parse, if_pos hempty]

/-- The parser sees the normalised line only. -/
theorem parse_congr {l l' : Text} (h : normalise l = normalise l') (r : ImmRange) : parse r l = parse r l' := by
  simp only [parse, h]

section Line

variable {op g : Text} (hop : Solid op) (hg : Blank g) (hne : g ≠ [])

include hop hg hne

/-- The parts of a normalised line: its opcode token, so that it is not empty, and its operand text. -/
theorem normalise_line (rest : Text) : normalise (op ++ g ++ rest) ≠ [] ∧
    opcodeToken (normalise (op ++ g ++ rest)) = lower op ∧
    operandText (normalise (op ++ g ++ rest)) = trim (lower rest) := by
  have hsolid := (solid_lower_iff op).mpr hop
  obtain ⟨hopcode, htext⟩ :=
    opcodeToken_operandText_trim hsolid (blank_lower hg) (lower_ne_nil hne) (lower rest)
  rw [← lower_append, ← lower_append, ← normalise_eq] at hopcode htext
  refine ⟨fun h => hsolid.1 ?_, hopcode, htext⟩
  rw [← hopcode, h]
  rfl

theorem parse_line {rest : Text} {toks : List Text} (h : operandTokens (trim (lower rest)) = .ok toks)
    (r : ImmRange) : parse r (op ++ g ++ rest) =
      (readOperands r toks).map fun ops => { opcode := lower op, operands := ops } := by
  obtain ⟨hline, hopcode, htext⟩ := normalise_line hop hg hne rest
  rw [parse_of_operandTokens hline (htext ▸ h), hopcode]

theorem parse_line_error {rest : Text} {e : ParseError} (h : operandTokens (trim (lower rest)) = .error e)
    (r : ImmRange) : parse r (op ++ g ++ rest) = .error e := by
  obtain ⟨hline, -, htext⟩ := normalise_line hop hg hne rest
  exact parse_of_operandTokens_error hline (htext ▸ h) r

end Line

/-! ### The comma form's pieces (R65) -/

/-- Settles O47: splitting the operand text gives the pieces back, and the bad one is `BadArity`. -/
theorem commaFormTokens : Obligations.CommaFormTokens := by
  refine fun pieces hlen hcomma => ⟨operandTokens_of_solid_pieces hlen hcomma, fun hbad r op hop => ?_⟩
  refine parse_line_error hop blank_space (by simp) ?_ r
  have hcomma' : ∀ p ∈ pieces.map lower, ',' ∉ p := by
    simpa [comma_mem_lower_iff] using hcomma
  have hbad' : ∃ p ∈ pieces.map lower, ¬ Solid (trim p) := by
    obtain ⟨p, hp, hpbad⟩ := hbad
    refine ⟨lower p, List.mem_map_of_mem hp, ?_⟩
    rw [trim_lower, solid_lower_iff]
    exact not_solid_of_bad hpbad
  rw [lower_joinTokens]
  exact operandTokens_of_bad_piece (by simpa using hlen) hcomma' hbad'

/-! ### Token lists in the comma form and the space form (R65, R66) -/

/-- Pieces that are tokens once trimmed, joined by commas. -/
theorem operandTokens_of_token_pieces {pieces : List Text} (hlen : 2 ≤ pieces.length)
    (h : ∀ p ∈ pieces, Token (trim p)) :
    operandTokens (trim (joinTokens [','] pieces)) = .ok (pieces.map trim) :=
  operandTokens_of_solid_pieces hlen (fun p hp hmem => (h p hp).2 ((comma_mem_trim_iff p).mpr hmem))
    fun p hp => (h p hp).1

theorem spaceTokens_joinTokens {toks : List Text} (h : ∀ t ∈ toks, Token t) :
    spaceTokens (joinTokens [' '] toks) = toks := by
  induction toks with
  | nil => rfl
  | cons t ts ih =>
    obtain ⟨ht, hts⟩ := List.forall_mem_cons.mp h
    cases ts with
    | nil => exact spaceTokens_of_solid ht.1
    | cons u us =>
      rw [joinTokens_cons_cons, spaceTokens_append_blank_append t blank_space (by simp),
        spaceTokens_of_solid ht.1, ih hts, List.singleton_append]

theorem comma_not_mem_joinTokens {toks : List Text} (h : ∀ t ∈ toks, Token t) :
    ',' ∉ joinTokens [' '] toks := by
  induction toks with
  | nil => exact List.not_mem_nil
  | cons t ts ih =>
    obtain ⟨ht, hts⟩ := List.forall_mem_cons.mp h
    cases ts with
    | nil => exact ht.2
    | cons u us =>
      simp [joinTokens_cons_cons, ht.2, ih hts]

/-- Tokens joined by spaces are the tokens. -/
theorem operandTokens_spaced {toks : List Text} (h : ∀ t ∈ toks, Token t) :
    operandTokens (trim (joinTokens [' '] toks)) = .ok toks := by
  have hcomma := comma_not_mem_joinTokens h
  rw [operandTokens_of_no_comma fun hmem => hcomma ((comma_mem_trim_iff _).mp hmem), spaceTokens_trim,
    spaceTokens_joinTokens h]

/-- Joining by comma and space is joining by comma the pieces with a space before each but the first. -/
theorem joinTokens_comma_space (t : Text) (ts : List Text) :
    joinTokens [',', ' '] (t :: ts) = joinTokens [','] (t :: ts.map (' ' :: ·)) := by
  induction ts generalizing t with
  | nil => rfl
  | cons u us ih =>
    rw [joinTokens_cons_cons, ih, List.map_cons, joinTokens_cons_cons, joinTokens_eq_intercalate,
      joinTokens_eq_intercalate, List.intercalate_cons_cons_left]
    simp

theorem trim_space_cons {t : Text} (h : Solid t) : trim (' ' :: t) = t := by
  simpa using trim_blank_solid_blank blank_space h blank_nil

/-- Tokens joined by comma and space are the tokens. -/
theorem operandTokens_commaSpaced {toks : List Text} (h : ∀ t ∈ toks, Token t) :
    operandTokens (trim (joinTokens [',', ' '] toks)) = .ok toks := by
  match toks with
  | [] | [_] => exact operandTokens_spaced h
  | t :: u :: us =>
    obtain ⟨ht, hts⟩ := List.forall_mem_cons.mp h
    have htrim : (t :: (u :: us).map (' ' :: ·)).map trim = t :: u :: us := by
      rw [List.map_cons, trim_of_solid ht.1, List.map_map]
      exact congrArg (t :: ·)
        ((List.map_congr_left fun x hx => trim_space_cons (hts x hx).1).trans (List.map_id _))
    rw [joinTokens_comma_space, operandTokens_of_token_pieces (by simp), htrim]
    exact fun p hp => h _ (htrim ▸ List.mem_map_of_mem hp)

/-! ### The two forms of a line (R61) -/

theorem forall_token_lower {toks : List Text} (h : ∀ t ∈ toks, Token t) : ∀ t ∈ toks.map lower, Token t :=
  List.forall_mem_map.mpr fun t ht => token_lower (h t ht)

section Forms

variable {op : Text} {toks : List Text} (hop : Solid op) (htoks : ∀ t ∈ toks, Token t) (r : ImmRange)

include hop htoks

theorem parse_spaced : parse r (op ++ [' '] ++ joinTokens [' '] toks) =
    (readOperands r (toks.map lower)).map fun ops => { opcode := lower op, operands := ops } := by
  refine parse_line hop blank_space (by simp) ?_ r
  rw [lower_joinTokens]
  exact operandTokens_spaced (forall_token_lower htoks)

theorem parse_commaSpaced : parse r (op ++ [' '] ++ joinTokens [',', ' '] toks) =
    (readOperands r (toks.map lower)).map fun ops => { opcode := lower op, operands := ops } := by
  refine parse_line hop blank_space (by simp) ?_ r
  rw [lower_joinTokens]
  exact operandTokens_commaSpaced (forall_token_lower htoks)

end Forms

/-- Three tokens with any whitespace between them. -/
theorem operandTokens_three_spaced {t1 t2 t3 g1 g2 : Text} (ht1 : Token t1) (ht2 : Token t2) (ht3 : Token t3)
    (hg1 : Blank g1) (hg2 : Blank g2) (hg1ne : g1 ≠ []) (hg2ne : g2 ≠ []) :
    operandTokens (trim (t1 ++ g1 ++ t2 ++ g2 ++ t3)) = .ok [t1, t2, t3] := by
  have hcomma : ',' ∉ trim (t1 ++ g1 ++ t2 ++ g2 ++ t3) := by
    simp [comma_mem_trim_iff, ht1.2, ht2.2, ht3.2, comma_not_mem_of_blank hg1, comma_not_mem_of_blank hg2]
  rw [operandTokens_of_no_comma hcomma, spaceTokens_trim, spaceTokens_append_blank_append _ hg2 hg2ne,
    spaceTokens_append_blank_append _ hg1 hg1ne, spaceTokens_of_solid ht1.1, spaceTokens_of_solid ht2.1,
    spaceTokens_of_solid ht3.1]
  rfl

/-- Three tokens with any whitespace around the commas between them. -/
theorem operandTokens_three_comma {t1 t2 t3 h1 h2 h3 h4 : Text} (ht1 : Token t1) (ht2 : Token t2)
    (ht3 : Token t3) (hh1 : Blank h1) (hh2 : Blank h2) (hh3 : Blank h3) (hh4 : Blank h4) :
    operandTokens (trim (t1 ++ h1 ++ [','] ++ h2 ++ t2 ++ h3 ++ [','] ++ h4 ++ t3)) = .ok [t1, t2, t3] := by
  have hjoin : t1 ++ h1 ++ [','] ++ h2 ++ t2 ++ h3 ++ [','] ++ h4 ++ t3 =
      joinTokens [','] [[] ++ t1 ++ h1, h2 ++ t2 ++ h3, h4 ++ t3 ++ []] := by simp [joinTokens]
  have htrim : [[] ++ t1 ++ h1, h2 ++ t2 ++ h3, h4 ++ t3 ++ []].map trim = [t1, t2, t3] := by
    rw [List.map_cons, List.map_cons, List.map_cons, trim_blank_solid_blank blank_nil ht1.1 hh1,
      trim_blank_solid_blank hh2 ht2.1 hh3, trim_blank_solid_blank hh4 ht3.1 blank_nil, List.map_nil]
  rw [hjoin, operandTokens_of_token_pieces (by simp), htrim]
  refine List.forall_mem_map.mp ?_
  rw [htrim]
  simp [ht1, ht2, ht3]

/-- Settles O45: in the space form whitespace parts the tokens, and in the comma form it is trimmed off the
pieces. -/
theorem tokensReadInBothForms : Obligations.TokensReadInBothForms := by
  intro r op t1 t2 t3 g0 g1 g2 h1 h2 h3 h4 hop ht1 ht2 ht3 hg0 hg1 hg2 hh1 hh2 hh3 hh4 hg0ne hg1ne hg2ne
  constructor
  · have htoks : operandTokens (trim (lower (t1 ++ g1 ++ t2 ++ g2 ++ t3))) =
        .ok [lower t1, lower t2, lower t3] := by
      simp only [lower_append]
      exact operandTokens_three_spaced (token_lower ht1) (token_lower ht2) (token_lower ht3) (blank_lower hg1)
        (blank_lower hg2) (lower_ne_nil hg1ne) (lower_ne_nil hg2ne)
    simpa only [List.append_assoc] using parse_line hop hg0 hg0ne htoks r
  · have htoks : operandTokens (trim (lower (t1 ++ h1 ++ [','] ++ h2 ++ t2 ++ h3 ++ [','] ++ h4 ++ t3))) =
        .ok [lower t1, lower t2, lower t3] := by
      simp only [lower_append]
      exact operandTokens_three_comma (token_lower ht1) (token_lower ht2) (token_lower ht3) (blank_lower hh1)
        (blank_lower hh2) (blank_lower hh3) (blank_lower hh4)
    simpa only [List.append_assoc] using parse_line hop hg0 hg0ne htoks r

/-! ### The count of operand tokens (R67) -/

theorem readOperands_of_length_ne {toks : List Text} (h : toks.length ≠ 3) (r : ImmRange) :
    readOperands r toks = .error .badArity := by
  unfold readOperands
  split
  · exact absurd rfl h
  · rfl

/-- Settles O46: any list of tokens but one of three is `BadArity`, whichever form it is written in. -/
theorem wrongCountIsBadArity : Obligations.WrongCountIsBadArity := by
  refine ⟨fun r l toks hblank htoks hlen => ?_, fun r op toks hop htoks hlen => ?_⟩
  · have hne : normalise l ≠ [] := fun h => hblank ((normalise_eq_nil_iff l).mp h)
    rw [parse_of_operandTokens hne htoks, readOperands_of_length_ne hlen, Except.map]
  · have hlen' : (toks.map lower).length ≠ 3 := by rwa [List.length_map]
    rw [parse_spaced hop htoks, parse_commaSpaced hop htoks, readOperands_of_length_ne hlen', Except.map]
    exact ⟨rfl, rfl⟩

/-! ### What a parse can give (R72, R73) -/

theorem operandTokens_cases (s : Text) :
    (∃ toks, operandTokens s = .ok toks) ∨ operandTokens s = .error .badArity := by
  by_cases h : ',' ∈ s
  · rw [operandTokens_of_comma h]
    simp only [commaTokens]
    split
    · exact .inr rfl
    · exact .inl ⟨_, rfl⟩
  · exact .inl ⟨_, operandTokens_of_no_comma h⟩

/-- What position 3 can give: a register or an immediate in the range, or an error of its token. -/
theorem thirdTok_cases (r : ImmRange) (t : Text) :
    (∃ n : Nat, thirdTok r t = .ok (.register n)) ∨
      (∃ v, r.contains v = true ∧ thirdTok r t = .ok (.immediate v)) ∨
      (∃ e, e ≠ .empty ∧ thirdTok r t = .error e) := by
  by_cases h : t.head? = some 'x'
  · rw [thirdTok_of_head_eq h]
    rcases regTok_cases t with ⟨-, hok⟩ | ⟨-, herror⟩
    · exact .inl hok
    · exact .inr (.inr ⟨_, by simp, herror⟩)
  · rw [thirdTok_of_head_ne h]
    rcases immTok_cases r t with hok | herror
    · exact .inr (.inl hok)
    · exact .inr (.inr ⟨_, by simp, herror⟩)

/-- What reading the operand tokens can give: operands that a line can denote, or an error. -/
theorem readOperands_cases (r : ImmRange) (toks : List Text) :
    (∃ ops, lineOperands r ops = true ∧ readOperands r toks = .ok ops) ∨
      (∃ e, e ≠ .empty ∧ readOperands r toks = .error e) := by
  by_cases hlen : toks.length = 3
  · obtain ⟨t1, t2, t3, rfl⟩ := List.length_eq_three.mp hlen
    by_cases h : RegisterToken t1 ∧ RegisterToken t2
    · obtain ⟨⟨d1, rfl, h1⟩, d2, rfl, h2⟩ := h
      rw [readOperands_of_digitStrings h1 h2]
      rcases thirdTok_cases r t3 with ⟨n, h3⟩ | ⟨v, hv, h3⟩ | ⟨e, he, h3⟩ <;> rw [h3]
      · exact .inl ⟨_, by simp [lineOperands], rfl⟩
      · exact .inl ⟨_, by simp [lineOperands, hv], rfl⟩
      · exact .inr ⟨e, he, rfl⟩
    · exact .inr ⟨_, by simp, readOperands_of_not_registerToken (not_and_or.mp h) r t3⟩
  · exact .inr ⟨_, by simp, readOperands_of_length_ne hlen r⟩

/-- What the parser gives on a line that is not blank: the normalised opcode token with operands that a line
can denote, or an error that is not `Empty`. -/
theorem parse_cases (r : ImmRange) {l : Text} (h : ¬ Blank l) :
    (∃ ops, lineOperands r ops = true ∧
        parse r l = .ok { opcode := opcodeToken (normalise l), operands := ops }) ∨
      (∃ e, e ≠ .empty ∧ parse r l = .error e) := by
  have hne : normalise l ≠ [] := fun hnil => h ((normalise_eq_nil_iff l).mp hnil)
  rcases operandTokens_cases (operandText (normalise l)) with ⟨toks, htoks⟩ | herror
  · rw [parse_of_operandTokens hne htoks]
    rcases readOperands_cases r toks with ⟨ops, hops, hread⟩ | ⟨e, he, hread⟩ <;> rw [hread]
    · exact .inl ⟨ops, hops, rfl⟩
    · exact .inr ⟨e, he, rfl⟩
  · exact .inr ⟨_, by simp, parse_of_operandTokens_error hne herror r⟩

/-- Settles O44: the parser sees the trimmed, lower-cased line only, and only a blank one is `Empty`. -/
theorem caseAndMarginsIgnored : Obligations.CaseAndMarginsIgnored := by
  refine ⟨fun r l l' before after hbefore hafter hlower => parse_congr ?_ r,
    fun r l => ⟨fun hempty => ?_, fun h => ?_⟩⟩
  · rw [normalise, trim_blank_append _ _ _ hbefore hafter, ← normalise, normalise_eq, hlower, ← normalise_eq]
  · by_contra h
    rcases parse_cases r h with ⟨ops, -, hok⟩ | ⟨e, he, herror⟩
    · cases hok.symm.trans hempty
    · exact he (Except.error.inj (herror.symm.trans hempty))
  · exact parse_of_blank h r

/-- The operands a line can denote are well formed (R83). -/
theorem contains_of_lineOperands {r : ImmRange} {ops : List Operand} (h : lineOperands r ops = true) {v : Int}
    (hv : .immediate v ∈ ops) : r.contains v = true := by
  unfold lineOperands at h
  split at h
  · simp at hv
  · next d a u =>
    have hvu : v = u := by simpa using hv
    rw [hvu]
    exact (Bool.and_eq_true_iff.mp h).2
  · cases h

theorem solid_opcodeToken_normalise {l : Text} (h : ¬ Blank l) : Solid (opcodeToken (normalise l)) := by
  refine ⟨?_, fun c hc => by simpa using List.mem_takeWhile_imp hc⟩
  cases hline : normalise l with
  | nil => exact absurd ((normalise_eq_nil_iff l).mp hline) h
  | cons c cs =>
    have hc : isSpace c = false :=
      isSpace_of_head?_trim (s := lower l) (by rw [← normalise_eq, hline, List.head?_cons])
    simp [opcodeToken, hc]

theorem lower_opcodeToken_normalise (l : Text) :
    lower (opcodeToken (normalise l)) = opcodeToken (normalise l) := by
  refine lower_eq_self fun c hc => ?_
  obtain ⟨d, -, rfl⟩ := List.mem_map.mp (List.takeWhile_subset _ hc)
  exact lowerChar_lowerChar d

/-- Settles O50: a line that parses is not blank, and its record is what the parser gives on one. -/
theorem parsedRecordShape : Obligations.ParsedRecordShape := by
  intro r l b hb
  have hblank : ¬ Blank l := fun h => by cases (parse_of_blank h r).symm.trans hb
  rcases parse_cases r hblank with ⟨ops, hops, hok⟩ | ⟨e, -, herror⟩
  · cases hok.symm.trans hb
    exact ⟨hops, (wellFormed_iff r _).mpr fun v hv => contains_of_lineOperands hops hv, rfl,
      solid_opcodeToken_normalise hblank, lower_opcodeToken_normalise l⟩
  · cases herror.symm.trans hb

end Sys2Proof.Proofs
end

section
/-! SUPPORT. The canonical spellings of an instruction (30_encoding.md R61, R81, R108) decode to it: the
tokens it is written with are tokens in lower case, and they read back as its operands. -/

namespace Sys2Proof.Proofs

open Sys2Proof.Machine Sys2Proof.Safety

/-! ### The text of a number and of an operand -/

theorem decSigned_of_nonneg {n : Int} (h : 0 ≤ n) : decSigned n = decText n.toNat :=
  if_neg (not_lt.mpr h)

theorem decSigned_of_neg {n : Int} (h : n < 0) : decSigned n = '-' :: decText n.natAbs :=
  if_pos h

/-- A number's text denotes the number (R71, R108). -/
theorem signedDecimal_decSigned (n : Int) : signedDecimal (decSigned n) = some n := by
  rcases lt_or_ge n 0 with h | h
  · rw [decSigned_of_neg h, signedDecimal_minus (digitString_decText _), dec_decText]
    congr 1
    omega
  · rw [decSigned_of_nonneg h, signedDecimal_of_digitString (digitString_decText _), dec_decText]
    congr 1
    omega

/-- A non-empty text of the characters that canonical tokens are written with. -/
def Canonical (t : Text) : Prop := t ≠ [] ∧ ∀ c ∈ t, c ∈ "-x0123456789".toList

theorem canonicalChar {c : Char} (h : c ∈ "-x0123456789".toList) :
    isSpace c = false ∧ c ≠ ',' ∧ lowerChar c = c := by
  have hall : ∀ c ∈ "-x0123456789".toList, isSpace c = false ∧ c ≠ ',' ∧ lowerChar c = c := by
    simp [isSpace, lowerChar]
  exact hall c h

theorem token_of_canonical {t : Text} (h : Canonical t) : Token t :=
  ⟨⟨h.1, fun c hc => (canonicalChar (h.2 c hc)).1⟩, fun hmem => (canonicalChar (h.2 _ hmem)).2.1 rfl⟩

theorem lower_of_canonical {t : Text} (h : Canonical t) : lower t = t :=
  lower_eq_self fun c hc => (canonicalChar (h.2 c hc)).2.2

theorem canonical_of_digitString {d : Text} (h : DigitString d) : Canonical d :=
  ⟨h.1, fun c hc => List.mem_cons_of_mem _ (List.mem_cons_of_mem _ (h.2 c hc))⟩

theorem canonical_cons {c : Char} {t : Text} (hc : c ∈ "-x0123456789".toList) (ht : Canonical t) :
    Canonical (c :: t) :=
  ⟨List.cons_ne_nil c t, List.forall_mem_cons.mpr ⟨hc, ht.2⟩⟩

theorem canonical_decSigned (n : Int) : Canonical (decSigned n) := by
  rcases lt_or_ge n 0 with h | h
  · rw [decSigned_of_neg h]
    exact canonical_cons (by decide) (canonical_of_digitString (digitString_decText _))
  · rw [decSigned_of_nonneg h]
    exact canonical_of_digitString (digitString_decText _)

theorem canonical_operandToken (o : Operand) : Canonical (operandToken o) := by
  cases o with
  | register i => exact canonical_cons (by decide) (canonical_decSigned i)
  | immediate v => exact canonical_decSigned v

theorem operandToken_register {n : Int} (h : 0 ≤ n) :
    operandToken (.register n) = 'x' :: decText n.toNat := by
  rw [operandToken, decSigned_of_nonneg h]

/-! ### Reading the tokens back -/

/-- The text of a number does not start with `x`. -/
theorem head?_decSigned_ne (n : Int) : (decSigned n).head? ≠ some 'x' := by
  rcases lt_or_ge n 0 with h | h
  · rw [decSigned_of_neg h]
    simp
  · rw [decSigned_of_nonneg h]
    have hdigits := digitString_decText n.toNat
    cases htext : decText n.toNat with
    | nil => simp
    | cons c cs =>
      rw [htext] at hdigits
      simpa using (head_ne_of_digitString hdigits).2.2

theorem thirdTok_register {n : Int} (h : 0 ≤ n) (r : ImmRange) :
    thirdTok r (operandToken (.register n)) = .ok (.register n) := by
  rw [operandToken_register h, thirdTok_of_head_eq rfl, regTok_of_digitString (digitString_decText _),
    dec_decText, Int.toNat_of_nonneg h]

theorem thirdTok_immediate {r : ImmRange} {v : Int} (h : r.contains v = true) :
    thirdTok r (operandToken (.immediate v)) = .ok (.immediate v) := by
  rw [operandToken, thirdTok_of_head_ne (head?_decSigned_ne v), immTok_of_some (signedDecimal_decSigned v),
    if_pos ((contains_iff r v).mp h)]

/-- Two registers and a third operand that its token reads back as. -/
theorem readOperands_operandTokens {r : ImmRange} {d a : Int} (hd : 0 ≤ d) (ha : 0 ≤ a) {o : Operand}
    (ho : thirdTok r (operandToken o) = .ok o) :
    readOperands r ([.register d, .register a, o].map operandToken) = .ok [.register d, .register a, o] := by
  rw [List.map_cons, List.map_cons, List.map_cons, List.map_nil, operandToken_register hd,
    operandToken_register ha, readOperands_of_digitStrings (digitString_decText _) (digitString_decText _), ho,
    dec_decText, dec_decText, Int.toNat_of_nonneg hd, Int.toNat_of_nonneg ha, Except.map]

/-- The operands a line can denote are what their tokens read back as. -/
theorem readOperands_of_lineOperands {r : ImmRange} {ops : List Operand} (h : lineOperands r ops = true) :
    readOperands r (ops.map operandToken) = .ok ops := by
  unfold lineOperands at h
  split at h
  · next d a b =>
    simp only [Bool.and_eq_true, decide_eq_true_eq] at h
    obtain ⟨⟨hd, ha⟩, hb⟩ := h
    exact readOperands_operandTokens hd ha (thirdTok_register hb r)
  · next d a v =>
    simp only [Bool.and_eq_true, decide_eq_true_eq] at h
    obtain ⟨⟨hd, ha⟩, hv⟩ := h
    exact readOperands_operandTokens hd ha (thirdTok_immediate hv)
  · cases h

/-! ### Whole lines -/

theorem solid_mnemonic (i : Instr) : Solid i.row.mnemonic := by
  rw [solid_iff]
  cases i <;> rfl

theorem lower_mnemonic (i : Instr) : lower i.row.mnemonic = i.row.mnemonic := by cases i <;> rfl

theorem decodeLine_of_parse {r : ImmRange} {l : Text} {i : Instr}
    (h : parse r l = .ok { opcode := i.row.mnemonic, operands := i.operands }) : decodeLine r l = .ok i := by
  simp only [decodeLine, h, resolve_bundle]

/-- The canonical tokens are tokens, and lower-casing leaves them as they are. -/
theorem forall_token_operandTokens (ops : List Operand) :
    (∀ t ∈ ops.map operandToken, Token t) ∧ (ops.map operandToken).map lower = ops.map operandToken := by
  constructor
  · exact List.forall_mem_map.mpr fun o _ => token_of_canonical (canonical_operandToken o)
  · rw [List.map_map]
    exact List.map_congr_left fun o _ => lower_of_canonical (canonical_operandToken o)

/-- Settles O37: the comma form reads the canonical tokens back. -/
theorem lineRoundTrip : Obligations.LineRoundTrip := by
  intro r i h
  obtain ⟨htokens, hlower⟩ := forall_token_operandTokens i.operands
  apply decodeLine_of_parse
  rw [encode, parse_commaSpaced (solid_mnemonic i) htokens, hlower, readOperands_of_lineOperands h,
    lower_mnemonic, Except.map]

/-- Settles O38: the space form reads the same tokens back. -/
theorem spaceFormRoundTrip : Obligations.SpaceFormRoundTrip := by
  intro r i h
  obtain ⟨htokens, hlower⟩ := forall_token_operandTokens i.operands
  apply decodeLine_of_parse
  rw [encodeSpaced, parse_spaced (solid_mnemonic i) htokens, hlower, readOperands_of_lineOperands h,
    lower_mnemonic, Except.map]

end Sys2Proof.Proofs
end

section
/-! SUPPORT. The two ways an instruction ends (40_execution.md R102 to R110): a report of the slot it wrote,
or an error; which of them, by its operands; and what the output ports then show (R116). -/

namespace Sys2Proof.Proofs

open Sys2Proof.Machine Sys2Proof.Safety

/-! ### The output ports (R116) -/

/-- The ports that show a report (R116). -/
theorem ports_of_ok {t : State} {report : ExecutionReport} (h : t.response = some (.ok report)) :
    respValid t = true ∧ respOk t = some true ∧ respReport t = some report ∧ respErrCode t = none ∧
      respErrIndex t = none := by
  simp [respValid, respOk, respReport, respErrCode, respErrIndex, h]

/-- The ports that show an error (R116, R180). -/
theorem ports_of_err {t : State} {e : ErrorKind} (h : t.response = some (.err e)) :
    respValid t = true ∧ respOk t = some false ∧ respReport t = none ∧
      respErrCode t = some (errorCode e) := by
  simp [respValid, respOk, respReport, respErrCode, h]

/-- Only `RegisterOutOfRange` has an index to show (R188). -/
theorem respErrIndex_eq_some_iff {t : State} {e : ErrorKind} (h : t.response = some (.err e)) (n : Int) :
    respErrIndex t = some n ↔ e = .exec (.registerOutOfRange n) := by
  rw [respErrIndex, h]
  cases e with
  | parse _ => simp
  | exec e => cases e <;> simp

/-! ### The errors of an implemented instruction (R102, R103) -/

theorem endsWith_raise (s : State) (e : ExecError) : EndsWith s e (.next (raise s (.exec e))) := rfl

/-- An outcome ends with at most one error. -/
theorem endsWith_raise_iff (s : State) (e e' : ExecError) :
    EndsWith s e' (.next (raise s (.exec e))) ↔ e = e' := by
  simp [EndsWith, raise]

/-- A report is no error. -/
theorem not_endsWith_complete (s : State) (rd : Fin 32) (v : Word) (e : ExecError) :
    ¬ EndsWith s e (.next (complete s rd v)) := by
  intro h
  have hresponse := congrArg State.response (Host.Outcome.next.inj h)
  simp at hresponse

section Implemented

variable {i : Instr} (himpl : implemented i = true)

include himpl

theorem exec_of_kinds_ne (hkinds : i.operands.map Operand.kind ≠ i.format.kinds) (s : State) :
    exec i s = .next (raise s (.exec .operandKindMismatch)) := by
  obtain ⟨op, hexec⟩ := exec_implemented himpl
  simp only [hexec, compute, validate_of_kinds_ne hkinds]

theorem exec_of_badIndex (hkinds : i.operands.map Operand.kind = i.format.kinds) {n : Int}
    (hbad : i.operands.findSome? badIndex = some n) (s : State) :
    exec i s = .next (raise s (.exec (.registerOutOfRange n))) := by
  obtain ⟨op, hexec⟩ := exec_implemented himpl
  simp only [hexec, compute, validate_of_badIndex hkinds hbad]

/-- A wrong list of kinds is the one cause of `OperandKindMismatch` (R102). -/
theorem endsWith_operandKindMismatch_iff (s : State) :
    EndsWith s .operandKindMismatch (exec i s) ↔ i.operands.map Operand.kind ≠ i.format.kinds := by
  constructor
  · intro hends hkinds
    cases hbad : i.operands.findSome? badIndex with
    | some n =>
      rw [exec_of_badIndex himpl hkinds hbad, endsWith_raise_iff] at hends
      cases hends
    | none =>
      obtain ⟨rd, rs1, rs2, v, hops⟩ := validate_of_no_badIndex hkinds hbad
      obtain ⟨op, hexec⟩ := exec_of_slotOperands himpl hops
      exact not_endsWith_complete _ _ _ _ (hexec s ▸ hends)
  · intro hkinds
    rw [exec_of_kinds_ne himpl hkinds]
    exact endsWith_raise ..

end Implemented

/-- The operands of an instruction decoded from a line are what a line can denote (R73). -/
theorem lineOperands_of_decodeLine {r : ImmRange} {l : Text} {i : Instr} (h : decodeLine r l = .ok i) :
    lineOperands r i.operands = true := by
  rw [decodeLine] at h
  split at h
  · cases h
  · next b hparse =>
    split at h
    · cases h
    · next j hres =>
      cases h
      obtain ⟨hops, -⟩ := parsedRecordShape r l b hparse
      rwa [← (opcode_operands_of_resolve hres).2]

/-- Operands that a line can denote have the wrong kinds for a format in one way: a third operand of the
other kind (R102). -/
theorem kinds_ne_iff_of_lineOperands {r : ImmRange} {ops : List Operand} (h : lineOperands r ops = true)
    (f : Format) : ops.map Operand.kind ≠ f.kinds ↔
      (f = .rType ∧ ∃ v, ops[2]? = some (.immediate v)) ∨
        (f = .iType ∧ ∃ n, ops[2]? = some (.register n)) := by
  unfold lineOperands at h
  split at h
  · cases f <;> simp [Operand.kind, Format.kinds]
  · cases f <;> simp [Operand.kind, Format.kinds]
  · cases h

/-- Settles O18: a wrong count is a wrong list of kinds, and a line's operands can be wrong in position 3
only. -/
theorem kindMismatchRule : Obligations.KindMismatchRule := by
  constructor
  · intro i s himpl hwrong
    rw [endsWith_operandKindMismatch_iff himpl]
    rcases hwrong with hlen | hkinds
    · exact fun hkinds => hlen (length_of_kinds hkinds)
    · exact hkinds
  · intro r l i s hdecode himpl
    rw [endsWith_operandKindMismatch_iff himpl,
      kinds_ne_iff_of_lineOperands (lineOperands_of_decodeLine hdecode)]

theorem badIndex_register_of_out {n : Int} (h : n < 0 ∨ n > 31) : badIndex (.register n) = some n :=
  if_pos h

theorem badIndex_register_of_in {n : Int} (h : 0 ≤ n ∧ n ≤ 31) : badIndex (.register n) = none :=
  if_neg (by omega)

/-- The search of step 3 passes over indices in the range and stops at the first outside it (R103). -/
theorem findSome?_badIndex_append {before : List Operand}
    (hbefore : ∀ m, .register m ∈ before → 0 ≤ m ∧ m ≤ 31) {n : Int} (hn : n < 0 ∨ n > 31) (after : List Operand) :
    (before ++ .register n :: after).findSome? badIndex = some n := by
  have hnone : before.findSome? badIndex = none := by
    rw [List.findSome?_eq_none_iff]
    intro o ho
    cases o with
    | register m => exact badIndex_register_of_in (hbefore m ho)
    | immediate v => exact badIndex_immediate v
  rw [List.findSome?_append, hnone, Option.none_or, List.findSome?_cons_of_isSome] <;>
    simp [badIndex_register_of_out hn]

/-- Settles O19: the search of step 3 finds the index that comes after the ones in the range. -/
theorem firstBadIndexReported : Obligations.FirstBadIndexReported := by
  intro i s before after n himpl hkinds hops hbefore hn
  rw [exec_of_badIndex himpl hkinds (hops ▸ findSome?_badIndex_append hbefore hn after)]
  exact endsWith_raise ..

/-- Settles O21: the ports of a raised `RegisterOutOfRange`. -/
theorem rangeErrorOnPorts : Obligations.RangeErrorOnPorts := by
  intro i s n himpl hkinds hbad
  have hresponse := raise_response s (.exec (.registerOutOfRange n))
  obtain ⟨hvalid, hok, hreport, hcode⟩ := ports_of_err hresponse
  exact ⟨_, exec_of_badIndex himpl hkinds hbad s, raise_x .., hvalid, hok, hcode,
    (respErrIndex_eq_some_iff hresponse n).mpr rfl, hreport⟩

/-- Settles O57: the ports of a completed instruction, and of a raised `UnsupportedOpcode`. -/
theorem responsePortsAfterInstruction : Obligations.ResponsePortsAfterInstruction := by
  constructor
  · intro i s rd rs1 rs2 v himpl hops
    obtain ⟨op, hexec⟩ := exec_of_slotOperands himpl hops
    obtain ⟨hvalid, hok, hreport, hcode, hindex⟩ := ports_of_ok (complete_response s rd _)
    refine ⟨_, _, hexec s, hvalid, hok, hreport, rfl, ?_, hcode, hindex⟩
    rw [snapshot, complete_x_self, makeReport]
  · intro i s hunsupp
    obtain ⟨hvalid, hok, hreport, hcode⟩ := ports_of_err (raise_response s (.exec .unsupportedOpcode))
    exact ⟨_, exec_unsupported hunsupp s, raise_x .., hvalid, hok, hreport, hcode, rfl⟩

/-! ### What the computing instructions write (R112, R113) -/

theorem reportMessage_eq (rd : Fin 32) (v : Word) : reportMessage rd v =
    "Register ".toList ++ decText rd.val ++ " set to ".toList ++ decSigned (signed v) := rfl

theorem writes_complete (s : State) (rd : Fin 32) (v : Word) : Writes s rd v (.next (complete s rd v)) :=
  ⟨_, rfl, complete_x_self s rd v, fun _ => complete_x_ne s v, rfl, rfl, rfl⟩

section Writes

variable (s : State) (rd rs1 rs2 : Fin 32) (v : Int)

theorem writes_compute (f : Format) (op : Word → Word → Word) :
    Writes s rd (op s.x[rs1] (sourceValue s (secondSource f rs2 v)))
      (compute f op (slotOperands f rd rs1 rs2 v) s) := by
  rw [compute_slotOperands]
  exact writes_complete ..

theorem writes_add : Writes s rd (s.x[rs1] + s.x[rs2]) (exec (.add (slotOperands .rType rd rs1 rs2 v)) s) :=
  sumOp_eq s.x[rs1] s.x[rs2] ▸ writes_compute s rd rs1 rs2 v .rType sumOp

theorem writes_sub : Writes s rd (s.x[rs1] - s.x[rs2]) (exec (.sub (slotOperands .rType rd rs1 rs2 v)) s) :=
  differenceOp_eq s.x[rs1] s.x[rs2] ▸ writes_compute s rd rs1 rs2 v .rType differenceOp

theorem writes_mul : Writes s rd (s.x[rs1] * s.x[rs2]) (exec (.mul (slotOperands .rType rd rs1 rs2 v)) s) :=
  productOp_eq s.x[rs1] s.x[rs2] ▸ writes_compute s rd rs1 rs2 v .rType productOp

theorem writes_sll : Writes s rd (s.x[rs1] <<< (s.x[rs2].toNat % 32))
    (exec (.sll (slotOperands .rType rd rs1 rs2 v)) s) :=
  shiftLeftOp_eq s.x[rs1] s.x[rs2] ▸ writes_compute s rd rs1 rs2 v .rType shiftLeftOp

theorem writes_addi : Writes s rd (s.x[rs1] + bv32 v) (exec (.addi (slotOperands .iType rd rs1 rs2 v)) s) :=
  sumImmOp_eq s.x[rs1] (bv32 v) ▸ writes_compute s rd rs1 rs2 v .iType sumImmOp

end Writes

/-- Settles O14: each instruction writes its operation on the slots as they were, equal ones included. -/
theorem sourceIsReadBeforeDestination : Obligations.SourceIsReadBeforeDestination :=
  fun s r q v _ => ⟨writes_add s r r r v, writes_sub s r q r v, writes_mul s r r q v, writes_sll s r r r v,
    writes_addi s r r q v⟩

/-- The table has no division and no remainder (R113). -/
theorem mnemonic_ne_of_division {m : Text}
    (h : m ∈ ["div".toList, "divu".toList, "rem".toList, "remu".toList]) :
    ∀ row ∈ opcodeTable, row.mnemonic ≠ m := by
  revert m
  decide

/-- Settles O10: `bv32` of the exact result is the word that is written, as `bv32` is a ring map that undoes
both readings of a word. -/
theorem arithmeticIsModuloWordSize : Obligations.ArithmeticIsModuloWordSize := by
  refine ⟨fun s rd rs1 rs2 v => ?_, fun a b => ?_, fun ops m hm => resolve_unknown ?_⟩
  · simp only [bv32_add, bv32_sub, bv32_mul, bv32_unsigned]
    exact ⟨writes_add .., writes_sub .., writes_mul .., fun _ => writes_addi ..⟩
  · simp only [bv32_add, bv32_sub, bv32_mul, bv32_unsigned, bv32_signed, and_self]
  · exact mnemonic_ne_of_division hm

end Sys2Proof.Proofs
end

section
/-! SUPPORT. A whole transaction (40_execution.md R100, R106 to R111): a step that answers with an error left
the file alone, and one that answers with a report completed an instruction. -/

namespace Sys2Proof.Proofs

open Sys2Proof.Machine Sys2Proof.Safety

/-! ### A step by its response -/

/-- What a step can do, by the response it leaves: none, an error raised, or the report of a completed write. -/
theorem step_next_cases {s t : State} (h : step s = .next t) :
    t.response = none ∨ (∃ e, t = raise (takeRequest s) e) ∨ (∃ rd v, t = complete (takeRequest s) rd v) := by
  rcases step_cases s with ⟨-, hs⟩ | ⟨-, hs⟩ | ⟨e, hs, -⟩ | ⟨i, rd, v, -, hs⟩ | ⟨r, -, hs⟩ <;>
    rw [hs] at h <;> cases h
  case inl => exact .inl (idle_response s)
  case inr.inl => exact .inl (pulseReset_response _)
  case inr.inr.inl => exact .inr (.inl ⟨e, rfl⟩)
  case inr.inr.inr.inl => exact .inr (.inr ⟨rd, v, rfl⟩)

theorem eq_raise_of_response_err {s t : State} {e : ErrorKind} (h : step s = .next t)
    (hresponse : t.response = some (.err e)) : t = raise (takeRequest s) e := by
  rcases step_next_cases h with hnone | ⟨e', rfl⟩ | ⟨rd, v, rfl⟩
  · cases hnone.symm.trans hresponse
  · cases hresponse
    rfl
  · cases hresponse

theorem eq_complete_of_response_ok {s t : State} {report : ExecutionReport} (h : step s = .next t)
    (hresponse : t.response = some (.ok report)) :
    ∃ rd v, t = complete (takeRequest s) rd v ∧ report = makeReport rd v t.x := by
  rcases step_next_cases h with hnone | ⟨e', rfl⟩ | ⟨rd, v, rfl⟩
  · cases hnone.symm.trans hresponse
  · cases hresponse
  · cases hresponse
    exact ⟨rd, v, rfl, rfl⟩

/-- Settles O25: the step raised the error, which leaves the file as it was and shows no report. -/
theorem errorLeavesRegisterFile : Obligations.ErrorLeavesRegisterFile := by
  intro s t e h hresponse
  obtain ⟨-, -, hreport, -⟩ := ports_of_err hresponse
  obtain rfl := eq_raise_of_response_err h hresponse
  exact ⟨raise_x .., hreport⟩

/-- Settles O26: the step completed an instruction, which writes the slot it reports and no other. -/
theorem successWritesOneSlot : Obligations.SuccessWritesOneSlot := by
  intro s t report h hresponse
  obtain ⟨rd, v, rfl, rfl⟩ := eq_complete_of_response_ok h hresponse
  exact ⟨rd, v, rfl, complete_x_self .., fun j => complete_x_ne _ v⟩

/-- Settles O34: the report is made of the slot written and of the file after the write. -/
theorem stepLeavesTrueReport : Obligations.StepLeavesTrueReport := by
  intro s t h report hresponse
  obtain ⟨rd, v, rfl, rfl⟩ := eq_complete_of_response_ok h hresponse
  refine ⟨rfl, rd, ?_⟩
  rw [complete_x_self]
  exact ⟨rfl, reportMessage_eq rd v⟩

/-! ### A step on a line (R100, R111) -/

/-- Settles O22: the machine's step on a line is the transaction written apart from it. -/
theorem lineStepIsTransact : Obligations.LineStepIsTransact := by
  intro s l rest h
  rw [step_of_line h, endTransaction_takeRequest h]

/-- Settles O28: both steps are the same transaction, which takes the line, the file and `ImmRange` alone. -/
theorem transactionDependsOnLineAndFile : Obligations.TransactionDependsOnLineAndFile := by
  intro s s' l rest rest' h h' hx himm
  refine ⟨_, _, lineStepIsTransact s l rest h, lineStepIsTransact s' l rest' h', ?_, ?_, rfl, rfl⟩
  all_goals rw [hx, himm]

/-- Settles O56: the ports show the transaction's response, whichever it is. -/
theorem responsePortsShowOutcome : Obligations.ResponsePortsShowOutcome := by
  intro s l rest h
  refine ⟨_, step_of_line h, rfl, rfl, fun report hreport => ?_, fun e herr => ?_⟩
  · exact (ports_of_ok (congrArg some hreport)).2
  · have hresponse : (endTransaction (takeRequest s) (transact s.immRange l s.x)).response = some (.err e) :=
      congrArg some herr
    obtain ⟨-, hok, hnone, hcode⟩ := ports_of_err hresponse
    exact ⟨hok, hnone, hcode, respErrIndex_eq_some_iff hresponse⟩

/-! ### A step on a request that decodes (R83, R100) -/

theorem takeRequest_eq {s : State} {q : Request} {rest : List Request} (h : s.requests = q :: rest) :
    takeRequest s = { s with requests := rest } := by
  rw [takeRequest, h, List.tail_cons]

theorem step_of_fetchRequest_run {s : State} {q : Request} {rest : List Request} {i : Instr}
    (h : s.requests = q :: rest) (hrun : fetchRequest s.immRange q = .run i) :
    step s = exec i { s with requests := rest } := by
  rw [step_run s i ((fetch_of_requests h).trans hrun), takeRequest_eq h]

theorem fetchRequest_of_decodeWord {r : ImmRange} {w : Word} {i : Instr} (hdecode : decodeWord w = some i)
    (hwf : i.wellFormed r = true) : fetchRequest r (.word w) = .run i := by
  simp only [fetchRequest, fetchWord, hdecode, if_pos hwf]

/-- Settles O4: each kind of request is fetched as the instruction it decodes to, which the step then runs. -/
theorem stepRunsDecodedInstruction : Obligations.StepRunsDecodedInstruction := by
  refine ⟨fun s l rest i h hdecode => ?_, fun s b rest i h hwf hres => ?_,
    fun s w rest i h hdecode hwf => ?_, fun s nbits w i hdecode hwf => ?_⟩
  · exact step_of_fetchRequest_run h (by simp only [fetchRequest, fetchLine, hdecode])
  · exact step_of_fetchRequest_run h (by simp only [fetchRequest, fetchBundle, if_pos hwf, hres])
  · exact step_of_fetchRequest_run h (fetchRequest_of_decodeWord hdecode hwf)
  · exact step_of_fetchRequest_run (withFetchWord_requests s nbits w) (fetchRequest_of_decodeWord hdecode hwf)

end Sys2Proof.Proofs
end

section
/-! SUPPORT. The text of a report: its message and numbers (40_execution.md R108) and the lines of the
formatter (R114). -/

namespace Sys2Proof.Proofs

open Sys2Proof.Machine Sys2Proof.Safety

/-! ### Numbers (R108) -/

/-- From ten up, the text is that of the tens followed by one more digit. -/
theorem decText_of_ten_le {n : Nat} (h : 10 ≤ n) :
    decText n = decText (n / 10) ++ [(n % 10).digitChar] :=
  Nat.toDigits_of_base_le (by decide) h

theorem decText_of_lt_ten {n : Nat} (h : n < 10) : decText n = [n.digitChar] := Nat.toDigits_of_lt_base h

/-- No leading zeros: the first digit is that of a number below ten, and not 0. -/
theorem head?_decText_ne_zero {n : Nat} (h : n ≠ 0) : (decText n).head? ≠ some '0' := by
  induction n using Nat.strong_induction_on with
  | _ n ih =>
    rcases Nat.lt_or_ge n 10 with hlt | hge
    · rw [decText_of_lt_ten hlt, List.head?_cons, ne_eq, Option.some_inj, Nat.digitChar_eq_zero]
      exact h
    · rw [decText_of_ten_le hge, List.head?_append_of_ne_nil _ (digitString_decText _).1]
      exact ih (n / 10) (by omega) (by omega)

theorem decSigned_of_nonneg_natAbs {n : Int} (h : 0 ≤ n) : decSigned n = decText n.natAbs := by
  rw [decSigned_of_nonneg h]
  congr 1
  omega

/-- No number is written with the character `c`, if canonical tokens are written without it. -/
theorem not_mem_decSigned {c : Char} (hc : c ∉ "-x0123456789".toList) (n : Int) : c ∉ decSigned n :=
  fun hmem => hc ((canonical_decSigned n).2 c hmem)

/-- Settles O52: the text of a number denotes it, is written without `+`, and has no leading zeros. -/
theorem messageAndDecimalRendering : Obligations.MessageAndDecimalRendering := by
  refine ⟨reportMessage_eq, fun n => ⟨signedDecimal_decSigned n, fun hplus => ?_, fun hn => ?_,
    decSigned_of_nonneg_natAbs, decSigned_of_neg⟩⟩
  · exact not_mem_decSigned (by decide) n (List.mem_of_head? hplus)
  · exact head?_decText_ne_zero (Int.natAbs_ne_zero.mpr hn)

/-! ### Line feeds (R108, R114) -/

theorem lineFeed_not_mem_decSigned (n : Int) : '\n' ∉ decSigned n := not_mem_decSigned (by decide) n

theorem lineFeed_not_mem_decText (n : Nat) : '\n' ∉ decText n :=
  fun hmem => absurd ((digitString_decText n).2 _ hmem) (by decide)

theorem lineFeed_not_mem_reportMessage (rd : Fin 32) (v : Word) : '\n' ∉ reportMessage rd v := by
  simp [reportMessage, lineFeed_not_mem_decText, lineFeed_not_mem_decSigned]

/-- The text of one register in the dump, without the line feed that ends it (R114). -/
def registerText (x : RegFile) (i : Fin 32) : Text :=
  "x".toList ++ decText i.val ++ ": ".toList ++ decSigned (signed x[i])

theorem dumpLine_eq (x : RegFile) (i : Fin 32) : dumpLine x i = registerText x i ++ ['\n'] := rfl

theorem lineFeed_not_mem_registerText (x : RegFile) (i : Fin 32) : '\n' ∉ registerText x i := by
  simp [registerText, lineFeed_not_mem_decText, lineFeed_not_mem_decSigned]

/-- Splitting at line feeds takes a line off the front. -/
theorem splitAtEvery_line {t : Text} (h : '\n' ∉ t) (rest : Text) :
    splitAtEvery (fun c => c == '\n') (t ++ ['\n'] ++ rest) =
      t :: splitAtEvery (fun c => c == '\n') rest := by
  rw [List.append_assoc, List.singleton_append]
  have hline : ∀ c ∈ t, (c == '\n') = false := fun c hc => beq_false_of_ne fun heq => h (heq ▸ hc)
  exact splitAtEvery_append _ t _ rest hline (beq_self_eq_true _)

/-- The dump's lines, in the order of the registers, and what follows the last line feed. -/
theorem splitAtEvery_dump (x : RegFile) (is : List (Fin 32)) :
    splitAtEvery (fun c => c == '\n') (is.flatMap (dumpLine x)) = is.map (registerText x) ++ [[]] := by
  induction is with
  | nil => rfl
  | cons i is ih =>
    rw [List.flatMap_cons, dumpLine_eq, splitAtEvery_line (lineFeed_not_mem_registerText x i), ih,
      List.map_cons, List.cons_append]

/-- Settles O53: the message line comes off the front, and the dump's lines remain. -/
theorem formatIsMessageAndDump : Obligations.FormatIsMessageAndDump := by
  refine ⟨fun r h => ?_, fun rd v X => lineFeed_not_mem_reportMessage rd v⟩
  rw [formatReport, splitAtEvery_line h, splitAtEvery_dump]
  rfl

end Sys2Proof.Proofs
end

section
/-! SUPPORT. The arithmetic R-type instructions (41_arith.md R130 to R132): the mnemonic, the slot written,
and the errors of the format. -/

namespace Sys2Proof.Proofs

open Sys2Proof.Machine Sys2Proof.Safety

section Family

variable {mk : List Operand → Instr} (himpl : ∀ ops, implemented (mk ops) = true)
  (hops : ∀ ops, (mk ops).operands = ops)

include himpl hops

/-- A family of computing instructions of one format has that format's errors (R102, R103). -/
theorem errsBy_of_implemented {f : Format} (hformat : ∀ ops, (mk ops).format = f) (s : State) :
    ErrsBy mk f s := by
  constructor
  · intro ops hkinds
    rw [exec_of_kinds_ne (himpl ops) (by rwa [hops, hformat])]
    exact endsWith_raise ..
  · intro ops n hkinds hbad
    rw [exec_of_badIndex (himpl ops) (by rwa [hops, hformat]) ((hops ops).symm ▸ hbad)]
    exact endsWith_raise ..

/-- An R-type family is known by what its mnemonic looks up and what it writes on three slots; the rest
is its format's. -/
theorem followsRType_of_writes (hformat : ∀ ops, (mk ops).format = .rType) {m : Text}
    (hresolve : ∀ ops, resolve { opcode := m, operands := ops } = .ok (mk ops)) {op : Word → Word → Word}
    (hwrites : ∀ (s : State) (rd rs1 rs2 : Fin 32), Writes s rd (op s.x[rs1] s.x[rs2])
      (exec (mk [.register rd.val, .register rs1.val, .register rs2.val]) s)) :
    FollowsRType m mk op :=
  ⟨hresolve, fun s => ⟨hwrites s, errsBy_of_implemented himpl hops hformat s⟩⟩

end Family

/-- Settles O5: the exact sum, reduced, is the sum of the words. -/
theorem addWritesSum : Obligations.AddWritesSum :=
  followsRType_of_writes (fun _ => rfl) (fun _ => rfl) (fun _ => rfl) (fun ops => (Laws.Lookup.add ops).1)
    fun s rd rs1 rs2 => writes_add s rd rs1 rs2 0

/-- Settles O6: the exact difference, reduced, is the difference of the words. -/
theorem subWritesDifference : Obligations.SubWritesDifference :=
  followsRType_of_writes (fun _ => rfl) (fun _ => rfl) (fun _ => rfl) (fun ops => (Laws.Lookup.sub ops).1)
    fun s rd rs1 rs2 => writes_sub s rd rs1 rs2 0

/-- Settles O7: the exact product, reduced, is the product of the words. -/
theorem mulWritesLowProduct : Obligations.MulWritesLowProduct :=
  followsRType_of_writes (fun _ => rfl) (fun _ => rfl) (fun _ => rfl) (fun ops => (Laws.Lookup.mul ops).1)
    fun s rd rs1 rs2 => writes_mul s rd rs1 rs2 0

end Sys2Proof.Proofs
end

section
/-! SUPPORT. The shift R-type instruction (42_shift.md R140, R141): the readings of its amount, the slot
written, and the errors of the format. -/

namespace Sys2Proof.Proofs

open Sys2Proof.Machine Sys2Proof.Safety

/-! ### The amount of a shift (R141) -/

theorem unsigned_mod_32 (b : Word) : unsigned b % 32 = shiftAmount b := (Int.natCast_mod b.toNat 32).symm

/-- The two readings differ by a multiple of 2^32, which 32 divides. -/
theorem signed_mod_32 (b : Word) : signed b % 32 = shiftAmount b := by
  have hdvd : (32 : Int) ∣ (2 ^ 32 : Nat) := by decide
  calc signed b % 32
      = (unsigned b).bmod (2 ^ 32) % 32 := by rw [signed, unsigned, BitVec.toInt_eq_toNat_bmod]
    _ = unsigned b % 32 := by rw [← Int.emod_emod_of_dvd _ hdvd, Int.bmod_emod, Int.emod_emod_of_dvd _ hdvd]
    _ = shiftAmount b := unsigned_mod_32 b

theorem toNat_lowFiveBits (b : Word) : (b.extractLsb 4 0).toNat = shiftAmount b := by
  rw [BitVec.extractLsb_toNat, Nat.shiftRight_zero, shiftAmount]

theorem shiftAmount_le (b : Word) : shiftAmount b ≤ 31 := Nat.le_of_lt_succ (Nat.mod_lt _ (by decide))

/-! ### What `sll` writes (R140) -/

/-- Settles O8: the exact product by the power of two, reduced, is the shift of the word. -/
theorem sllWritesShifted : Obligations.SllWritesShifted :=
  followsRType_of_writes (fun _ => rfl) (fun _ => rfl) (fun _ => rfl) (fun ops => (Laws.Lookup.sll ops).1)
    fun s rd rs1 rs2 => writes_sll s rd rs1 rs2 0

/-- Settles O11: the amount that `sll` shifts by is the remainder of either reading, and the low five bits. -/
theorem shiftAmountIsLowFiveBits : Obligations.ShiftAmountIsLowFiveBits := fun s rd rs1 rs2 =>
  ⟨shiftAmount s.x[rs2], (signed_mod_32 _).symm, (unsigned_mod_32 _).symm, (toNat_lowFiveBits _).symm,
    shiftAmount_le _, writes_compute s rd rs1 rs2 0 .rType shiftLeftOp⟩

end Sys2Proof.Proofs
end

section
/-! SUPPORT. The I-type instruction (43_immediate.md R150): the mnemonic, the slot written, and the errors
of the format. -/

namespace Sys2Proof.Proofs

open Sys2Proof.Machine Sys2Proof.Safety

/-- Settles O9: the exact sum with the literal, reduced, is the sum of the words; the range of the
immediate is checked before `exec` (R71, R83), so the sum is written for every literal. -/
theorem addiWritesSumWithLiteral : Obligations.AddiWritesSumWithLiteral :=
  ⟨fun ops => (Laws.Lookup.addi ops).1, fun s =>
    ⟨fun rd rs1 v _ => writes_addi s rd rs1 0 v,
      @errsBy_of_implemented .addi (fun _ => rfl) (fun _ => rfl) .iType (fun _ => rfl) s⟩⟩

end Sys2Proof.Proofs
end

section
/-! SUPPORT. The seven known-but-unimplemented instructions (44_unsupported.md R160 to R167): decoded, they
raise `UnsupportedOpcode`; presented as a line, they end the transaction with it at step 1 (R101). -/

namespace Sys2Proof.Proofs

open Sys2Proof.Machine Sys2Proof.Safety

/-- Settles O15: each of the seven is `rejectUnsupported`, which looks at no operand and raises the error. -/
theorem sevenRaiseUnsupported : Obligations.SevenRaiseUnsupported := by
  intro i s hunsupp
  rw [exec_unsupported hunsupp]
  exact endsWith_raise s .unsupportedOpcode

/-- The two classes of the Opcode Table have no mnemonic in common (R76, R78). -/
theorem mnemonicClasses_disjoint : ∀ m ∈ unsupportedMnemonics, m ∉ implementedMnemonics := by decide

/-- A mnemonic of the second class is known without an operation (R78). -/
theorem semantics_of_mem_unsupportedMnemonics {m : Text} (h : m ∈ unsupportedMnemonics) :
    semantics m = some none := by
  have himpl := mnemonicClasses_disjoint m h
  simp only [implementedMnemonics, List.mem_cons, List.not_mem_nil, or_false, not_or] at himpl
  obtain ⟨hadd, hsub, hmul, hsll, haddi⟩ := himpl
  rw [semantics, if_neg hadd, if_neg hsub, if_neg hmul, if_neg hsll, if_neg haddi, if_pos h]

/-- The engine ends a bundle with one of the seven mnemonics at step 1, whatever its operands (R101, R160). -/
theorem transactBundle_of_unsupported {b : Instruction} (h : b.opcode ∈ unsupportedMnemonics) (X : RegFile) :
    transactBundle b X = (.err (.exec .unsupportedOpcode), X) := by
  simp only [transactBundle, execute, semantics_of_mem_unsupportedMnemonics h]

/-- A step on a line whose transaction ends with an error takes the line and shows the error; nothing else
changes (R100, R110). -/
theorem step_of_transact_err {s : State} {l : Text} {rest : List Request} {e : ErrorKind}
    (h : s.requests = .line l :: rest) (herr : transact s.immRange l s.x = (.err e, s.x)) :
    step s = .next { s with requests := rest, response := some (.err e) } := by
  rw [step_of_line h, herr, endTransaction_takeRequest h]

/-- Settles O16: the transaction of a line that parses is the engine's on its record, which step 1 ends for
the seven; that of a line that does not parse is its `ParseError`. -/
theorem unsupportedLinesRejected : Obligations.UnsupportedLinesRejected := by
  refine fun s l rest h => ⟨fun b hparse hunsupp => ?_, fun e hparse => ?_⟩
  · exact step_of_transact_err h (by simp only [transact, hparse, transactBundle_of_unsupported hunsupp])
  · exact step_of_transact_err h (by simp only [transact, hparse])

end Sys2Proof.Proofs
end

section
/-! SUPPORT. When a step goes on and when it is refused, and what it shows (60_exceptions.md R180 to R197):
a request that has a meaning is always answered, an error has one code, and the earliest check decides. -/

namespace Sys2Proof.Proofs

open Sys2Proof.Machine Sys2Proof.Safety

/-! ### Going on and refusing (R83, R189) -/

/-- With nothing pending there is nothing that lacks a meaning. -/
theorem servable_of_requests_nil {s : State} (h : s.requests = []) : Servable s := by
  simp [Servable, h]

/-- With nothing pending the step idles (R211). -/
theorem step_of_requests_nil {s : State} (h : s.requests = []) : step s = .next (idle s) :=
  step_idle s (by rw [fetch, h])

/-- Settles O31: an empty stream idles and stays empty; else the head is served, and the rest of the stream is
left with the same `ImmRange`. -/
theorem servableStepsForever : Obligations.ServableStepsForever := by
  intro s hserv
  cases hreq : s.requests with
  | nil =>
    exact ⟨_, step_of_requests_nil hreq, servable_of_requests_nil ((idle_requests s).trans hreq)⟩
  | cons q rest =>
    obtain ⟨t, hstep, hrest, -⟩ := step_serves hreq (hserv q (hreq ▸ List.mem_cons_self))
    exact ⟨t, hstep, servable_of_tail hserv hreq hrest (step_immRange hstep)⟩

/-- A request without a meaning is refused when it is fetched. -/
theorem fetchRequest_of_inadmissible {r : ImmRange} {q : Request} (h : admissible r q = false) :
    ∃ e, fetchRequest r q = .refuse e := by
  cases q with
  | rst => cases h
  | line l => cases h
  | bundle b =>
    have hwf : ¬ b.wellFormed r = true := ne_true_of_eq_false h
    exact ⟨.bundleNotWellFormed, by simp only [fetchRequest, fetchBundle, if_neg hwf]⟩
  | word w =>
    rw [admissible] at h
    cases hdec : decodeWord w with
    | none => exact ⟨.wordNotInTable, by simp only [fetchRequest, fetchWord, hdec]⟩
    | some i =>
      have hwf : ¬ i.wellFormed r = true := ne_true_of_eq_false (by simpa only [hdec] using h)
      exact ⟨.bundleNotWellFormed, by simp only [fetchRequest, fetchWord, hdec, if_neg hwf]⟩

/-- Settles O33: the step answers on an empty stream and on a head that has a meaning, and refuses any other
head as it is fetched. -/
theorem refusesExactlyInadmissible : Obligations.RefusesExactlyInadmissible := by
  intro s
  cases hreq : s.requests with
  | nil => simp [step_of_requests_nil hreq]
  | cons q rest =>
    rw [List.head?_cons]
    constructor
    · rintro ⟨r, hrefused⟩
      refine ⟨q, rfl, Bool.eq_false_iff.mpr fun hadm => ?_⟩
      obtain ⟨t, hstep, -⟩ := step_serves hreq hadm
      cases hstep.symm.trans hrefused
    · rintro ⟨q', hq, hadm⟩
      cases hq
      obtain ⟨r, hfetch⟩ := fetchRequest_of_inadmissible hadm
      exact ⟨r, step_refuse s r ((fetch_of_requests hreq).trans hfetch)⟩

/-! ### Reset (R197, R212) -/

/-- Settles O2: the frame of `pulseReset` on the stream without its head. -/
theorem rstReturnsNothing : Obligations.RstReturnsNothing := by
  intro s rest h
  refine ⟨_, step_rst s (fetch_of_requests h), ?_, ?_, ?_⟩
  · rw [pulseReset_requests, takeRequest_requests, h, List.tail_cons]
  · rw [pulseReset_immRange, takeRequest_immRange]
  · rw [respValid, pulseReset_response, Option.isSome_none]

/-! ### The error codes (R180, R188) -/

theorem errorCode_bounds (e : ErrorKind) : errorCode e ≠ 0 ∧ (errorCode e).toNat ≤ 8 := by
  cases e with
  | parse e => cases e <;> decide
  | exec e => cases e <;> simp [errorCode]

/-- Code 8 is that of `RegisterOutOfRange` alone, whatever the index. -/
theorem errorCode_eq_eight_iff (e : ErrorKind) :
    errorCode e = 8 ↔ ∃ n, e = .exec (.registerOutOfRange n) := by
  cases e with
  | parse e => cases e <;> simp [errorCode]
  | exec e => cases e <;> simp [errorCode]

/-- The index port is valid exactly beside code 8: both speak of the error on the response port. -/
theorem exists_respErrIndex_iff (t : State) :
    (∃ n, respErrIndex t = some n) ↔ respErrCode t = some 8 := by
  cases hresponse : t.response with
  | none => simp [respErrIndex, respErrCode, hresponse]
  | some response =>
    cases response with
    | ok report =>
      obtain ⟨-, -, -, hcode, hindex⟩ := ports_of_ok hresponse
      simp [hcode, hindex]
    | err e =>
      obtain ⟨-, -, -, hcode⟩ := ports_of_err hresponse
      simp only [hcode, Option.some_inj, errorCode_eq_eight_iff, respErrIndex_eq_some_iff hresponse]

/-- Settles O20: the table of R180, its bounds, and the two ports that show it. -/
theorem errorCodesAreOneToEight : Obligations.ErrorCodesAreOneToEight := by
  refine ⟨rfl, rfl, rfl, rfl, rfl, rfl, rfl, fun _ => rfl, errorCode_bounds, fun t e h => ?_,
    exists_respErrIndex_iff⟩
  obtain ⟨-, -, -, hcode⟩ := ports_of_err h
  exact hcode

/-! ### The earliest check decides (R183, R184, R190) -/

section Lines

variable {r : ImmRange} {l : Text}

/-- A line that the parser rejects reaches no later check (R72, R100). -/
theorem transact_of_parse_error {e : ParseError} (h : parse r l = .error e) (X : RegFile) :
    transact r l X = (.err (.parse e), X) := by
  simp only [transact, h]

/-- A line with one of the seven mnemonics ends at step 1, before the operands are looked at (R101). -/
theorem transact_of_unsupported {b : Instruction} (h : parse r l = .ok b)
    (hunsupp : b.opcode ∈ unsupportedMnemonics) (X : RegFile) :
    transact r l X = (.err (.exec .unsupportedOpcode), X) := by
  simp only [transact, h, transactBundle_of_unsupported hunsupp]

/-- A line with operands of the wrong kinds ends at step 2, before the indices are looked at (R102). -/
theorem transact_of_kinds_ne {b : Instruction} (h : parse r l = .ok b) {f : Format} {op : Word → Word → Word}
    (hsem : semantics b.opcode = some (some (f, op))) (hkinds : b.operands.map Operand.kind ≠ f.kinds)
    (X : RegFile) : transact r l X = (.err (.exec .operandKindMismatch), X) := by
  simp only [transact, h, transactBundle, execute_of_kinds_ne hsem hkinds]

end Lines

/-- Settles O54: `xor` ends at step 1, the first `add` at step 2, and the other lines in the parser. -/
theorem priorityExamples : Obligations.PriorityExamples := by
  intro s himm p hp
  have htransact : transact Config.defaultImmRange p.1 s.x = (.err p.2, s.x) := by
    revert p
    simp only [List.forall_mem_cons, List.not_mem_nil, false_imp_iff, implies_true, and_true]
    refine ⟨?xor, ?add, ?_⟩
    case xor =>
      exact transact_of_unsupported (b := ⟨"xor".toList, [.register 99, .register 2, .immediate 5]⟩)
        (by decide) (by decide) s.x
    case add =>
      exact transact_of_kinds_ne (b := ⟨"add".toList, [.register 99, .register 2, .immediate 5]⟩)
        (by decide) rfl (by decide) s.x
    and_intros
    all_goals exact transact_of_parse_error (by decide) s.x
  exact step_of_transact_err rfl (himm ▸ htransact)

end Sys2Proof.Proofs
end

section
/-! SUPPORT. Reset, and registers loaded after it (70_reset_and_hazards.md R210 to R214): the state that
reset leaves, a step with nothing pending, and `addi` from a zero `x0`. -/

namespace Sys2Proof.Proofs

open Sys2Proof.Machine Sys2Proof.Safety

/-! ### The state after reset (R210, R211) -/

/-- A pulse on `rst` clears the file, whatever it held (R210). -/
theorem pulseReset_x_getElem (s : State) (i : Fin 32) : (pulseReset s).x[i] = 0 := by
  simp

/-- With no response on the port there is no report to be untrue. -/
theorem reportTrue_of_response_none {s : State} (h : s.response = none) : ReportTrue s := by
  simp [ReportTrue, h]

/-- Settles O1: the file of `State.reset`, and that of `pulseReset`, which the step on `rst` answers with. -/
theorem resetClearsEverySlot : Obligations.ResetClearsEverySlot :=
  ⟨reset_x, fun _ _ h => ⟨_, step_rst _ (fetch_of_requests h), pulseReset_x_getElem _⟩⟩

/-- Settles O32: nothing is pending after reset, and the default `ImmRange` is the signed 32-bit range. -/
theorem resetIsServable : Obligations.ResetIsServable :=
  ⟨servable_of_requests_nil reset_requests, by rw [ParameterLegal, reset_immRange]; decide⟩

/-- Settles O35: no response stands on the port after reset. -/
theorem resetReportTrue : Obligations.ResetReportTrue := reportTrue_of_response_none reset_response

/-- Settles O3: the step idles, which takes the response off the port and nothing else. -/
theorem idleStepChangesNoSlot : Obligations.IdleStepChangesNoSlot := by
  intro s h
  refine ⟨_, step_of_requests_nil h, idle_x s, (idle_requests s).trans h, idle_immRange s, ?_⟩
  rw [respValid, idle_response, Option.isSome_none]

/-! ### Loading a chosen value (R213, R214) -/

/-- The word of a literal from a legal `ImmRange` reads back as the literal (R75). -/
theorem signed_bv32_of_contains {s : State} (hlegal : ParameterLegal s) {v : Int}
    (hv : s.immRange.contains v = true) : signed (bv32 v) = v :=
  immediateIsItsOwnValue s.immRange s v hlegal hv

/-- Settles O13: `addi` writes the sum of 0 and the literal's word, which reads back as the literal. -/
theorem addiLoadsChosenValue : Obligations.AddiLoadsChosenValue := by
  intro s n v hzero hlegal hv
  obtain ⟨t, hexec, hslot, -⟩ := writes_addi s n 0 0 v
  have hword : t.x[n] = bv32 v := by rw [hslot, hzero, zero_add]
  exact ⟨t, hexec, by rw [hword, signed_bv32_of_contains hlegal hv]⟩

end Sys2Proof.Proofs
end

section
/-! SUPPORT. The binary front end of R84: a word steps as the bundle it stands for, a word of no row is
refused, and the words of 95_test_vectors.md decode as written there. -/

namespace Sys2Proof.Proofs

open Sys2Proof.Machine Sys2Proof.Safety

/-! ### What the front end and the lookup read -/

theorem decodeWord_of_hasFixedBits {row : OpcodeRow} {w : Word} (hrow : row ∈ opcodeTable)
    (h : row.hasFixedBits w = true) : decodeWord w = some (row.build (wordOperands row.format w)) := by
  simp only [decodeWord, find?_hasFixedBits hrow h]

theorem decodeWord_eq_none {w : Word} (h : ∀ row ∈ opcodeTable, row.hasFixedBits w = false) :
    decodeWord w = none := by
  have hfind : opcodeTable.find? (fun row => row.hasFixedBits w) = none :=
    List.find?_eq_none.mpr fun row hrow => Bool.eq_false_iff.mp (h row hrow)
  simp only [decodeWord, hfind]

/-- The lookup of a row's mnemonic builds that row's instruction (R76). -/
theorem resolve_of_row {row : OpcodeRow} (hrow : row ∈ opcodeTable) (ops : List Operand) :
    resolve { opcode := row.mnemonic, operands := ops } = .ok (row.build ops) := by
  obtain ⟨hmnemonic, hoperands⟩ := mnemonic_operands_build hrow ops
  have hres := resolve_bundle (row.build ops)
  rwa [hmnemonic, hoperands] at hres

/-- The lookup keeps the operands, so R83's check says the same before and after it. -/
theorem wellFormed_of_resolve {b : Instruction} {i : Instr} (h : resolve b = .ok i) (r : ImmRange) :
    b.wellFormed r = i.wellFormed r := by
  rw [Instruction.wellFormed, Instr.wellFormed, (opcode_operands_of_resolve h).2]

/-! ### One step on a word -/

section OneWord

variable {s : State} {w : Word} {rest : List Request}

theorem step_of_illFormed_word {i : Instr} (h : s.requests = .word w :: rest)
    (hdec : decodeWord w = some i) (hwf : ¬ i.wellFormed s.immRange = true) :
    step s = .refused .bundleNotWellFormed :=
  step_refuse s _ (by simp only [fetch_of_requests h, fetchRequest, fetchWord, hdec, if_neg hwf])

theorem step_of_undecoded_word (h : s.requests = .word w :: rest) (hdec : decodeWord w = none) :
    step s = .refused .wordNotInTable :=
  step_refuse s _ (by simp only [fetch_of_requests h, fetchRequest, fetchWord, hdec])

/-- A word and a bundle that decode to one instruction step alike: both run it where it is well formed,
and both are refused where it is not. -/
theorem step_word_eq_step_bundle {b : Instruction} {i : Instr} (h : s.requests = .word w :: rest)
    (hdec : decodeWord w = some i) (hres : resolve b = .ok i) :
    step s = step { s with requests := .bundle b :: rest } := by
  have hb : b.wellFormed s.immRange = i.wellFormed s.immRange := wellFormed_of_resolve hres s.immRange
  by_cases hwf : i.wellFormed s.immRange = true
  · obtain ⟨-, hbundle, hword, -⟩ := stepRunsDecodedInstruction
    have hran := hbundle { s with requests := .bundle b :: rest } b rest i rfl (hb.trans hwf) hres
    exact (hword s w rest i h hdec hwf).trans hran.symm
  · exact (step_of_illFormed_word h hdec hwf).trans (step_of_illFormed_bundle rfl (hb ▸ hwf)).symm

end OneWord

/-- Settles O24: the front end reads from the word what the lookup builds from the row's bundle, and reads
nothing from a word of no row. -/
theorem wordStepIsItsBundle : Obligations.WordStepIsItsBundle := by
  refine fun s w rest h => ⟨fun row hrow hfixed => ?_, fun hnone => ?_⟩
  · exact step_word_eq_step_bundle h (decodeWord_of_hasFixedBits hrow hfixed) (resolve_of_row hrow _)
  · exact step_of_undecoded_word h (decodeWord_eq_none hnone)

/-- Settles O43: each word has the fixed bits of its instruction's row, and its fields are the operands. -/
theorem sampleWordsDecode : Obligations.SampleWordsDecode := by
  unfold Obligations.SampleWordsDecode
  and_intros
  all_goals exact (decodeWord_eq_some_iff ..).mpr (by decide)

end Sys2Proof.Proofs
end
